-- ==== Sys2Proof/Word.lean ====
section
/-! DEFINITION. The word types of the machine and the names of its register and pixel indices
(00_scope.md R8, R10; 10_state.md R20). -/

namespace Sys2Proof

/-- A byte of memory, and the contents of a general register or a timer (R8). -/
abbrev Byte := BitVec 8

/-- A 16-bit value: `I`, `pc`, a stack entry, an instruction word (R8). -/
abbrev Word := BitVec 16

/-- The number of a general register, 0 to 15 (10_state.md R21). -/
abbrev Reg := Fin 16

/-- A hex key, 0x0 to 0xF (10_state.md R30). -/
abbrev Key := Fin 16

end Sys2Proof
end

