-- ==== Sys2Proof/Syntax.lean ====
section
/-! DEFINITION. The 35 instructions, one constructor per row of spec/opcode_table.json, in the table's order.
The docstring of each gives the row's pattern, the name of record (30_encoding.md R84). -/

namespace Sys2Proof

/-- An instruction with its decoded operands (30_encoding.md R71, R73): `x`, `y` register numbers, `n` a 4-bit,
`nn` an 8-bit and `nnn` a 12-bit unsigned immediate. -/
inductive Instr where
  /-- `0NNN` (R95) -/
  | sys (nnn : BitVec 12)
  /-- `00E0` (R170) -/
  | cls
  /-- `00EE` (R97) -/
  | ret
  /-- `1NNN` (R96) -/
  | jp (nnn : BitVec 12)
  /-- `2NNN` (R98) -/
  | call (nnn : BitVec 12)
  /-- `3XNN` (R100) -/
  | seImm (x : Reg) (nn : Byte)
  /-- `4XNN` (R101) -/
  | sneImm (x : Reg) (nn : Byte)
  /-- `5XY0` (R102) -/
  | seReg (x y : Reg)
  /-- `6XNN` (R120) -/
  | ldImm (x : Reg) (nn : Byte)
  /-- `7XNN` (R121) -/
  | addImm (x : Reg) (nn : Byte)
  /-- `8XY0` (R122) -/
  | ldReg (x y : Reg)
  /-- `8XY1` (R123) -/
  | orReg (x y : Reg)
  /-- `8XY2` (R124) -/
  | andReg (x y : Reg)
  /-- `8XY3` (R125) -/
  | xorReg (x y : Reg)
  /-- `8XY4` (R126) -/
  | addReg (x y : Reg)
  /-- `8XY5` (R127) -/
  | subReg (x y : Reg)
  /-- `8XY6` (R128) -/
  | shr (x y : Reg)
  /-- `8XY7` (R129) -/
  | subnReg (x y : Reg)
  /-- `8XYE` (R130) -/
  | shl (x y : Reg)
  /-- `9XY0` (R103) -/
  | sneReg (x y : Reg)
  /-- `ANNN` (R150) -/
  | ldI (nnn : BitVec 12)
  /-- `BNNN` (R99) -/
  | jpV0 (nnn : BitVec 12)
  /-- `CXNN` (R131) -/
  | rnd (x : Reg) (nn : Byte)
  /-- `DXYN` (R174) -/
  | drw (x y : Reg) (n : BitVec 4)
  /-- `EX9E` (R193) -/
  | skp (x : Reg)
  /-- `EXA1` (R194) -/
  | sknp (x : Reg)
  /-- `FX07` (R190) -/
  | ldVxDt (x : Reg)
  /-- `FX0A` (R195) -/
  | ldVxK (x : Reg)
  /-- `FX15` (R191) -/
  | ldDtVx (x : Reg)
  /-- `FX18` (R192) -/
  | ldStVx (x : Reg)
  /-- `FX1E` (R151) -/
  | addI (x : Reg)
  /-- `FX29` (R152) -/
  | ldF (x : Reg)
  /-- `FX33` (R153) -/
  | ldB (x : Reg)
  /-- `FX55` (R154) -/
  | stRegs (x : Reg)
  /-- `FX65` (R155) -/
  | ldRegs (x : Reg)
  deriving DecidableEq, Repr

end Sys2Proof
end

