-- ==== Sys2Proof/WellFormed.lean ====
section
/-! DEFINITION. Which terms of `Instr` are instructions the decoder can give. Every operand's range is its type's;
the one check left is that `0NNN` excludes the two words 0x00E0 and 0x00EE (30_encoding.md R80). -/

namespace Sys2Proof

/-- `0NNN` is "every other word with kind 0": not 0x00E0 and not 0x00EE (R80). -/
def sysWellFormed (nnn : BitVec 12) : Bool := nnn != 0x0E0#12 && nnn != 0x0EE#12

/-- The terms that have an encoding of their own. -/
def Instr.wellFormed (i : Instr) : Bool :=
  match i with
  | .sys nnn => sysWellFormed nnn
  | .cls | .ret | .jp _ | .call _ | .seImm _ _ | .sneImm _ _ | .seReg _ _ | .ldImm _ _ | .addImm _ _
  | .ldReg _ _ | .orReg _ _ | .andReg _ _ | .xorReg _ _ | .addReg _ _ | .subReg _ _ | .shr _ _
  | .subnReg _ _ | .shl _ _ | .sneReg _ _ | .ldI _ | .jpV0 _ | .rnd _ _ | .drw _ _ _ | .skp _ | .sknp _
  | .ldVxDt _ | .ldVxK _ | .ldDtVx _ | .ldStVx _ | .addI _ | .ldF _ | .ldB _ | .stRegs _ | .ldRegs _ => true

end Sys2Proof
end

