-- ==== Sys2Proof/Decode.lean ====
section
/-! DEFINITION. Decoding and encoding (30_encoding.md R70 to R82): the fields of a word, the dispatch by kind and
sub-opcode, the decoder on bytes, the encoder, and the rows of the opcode table as mask and pattern. -/

namespace Sys2Proof

/-- What a word is: one of the 35 instructions, or unrecognized (30_encoding.md R83: "Every word is in one of two
classes"). -/
inductive Decoded where
  /-- the word is this instruction -/
  | instr (i : Instr)
  /-- the word names no instruction (R75, R82); a step reports it (60_exceptions.md R228) -/
  | unrecognized (w : Word)
  deriving DecidableEq, Repr

/-- Why the decoder rejects bytes. -/
inductive DecodeError where
  /-- the first two bytes are a word that names no instruction (R75) -/
  | unrecognized (w : Word)
  /-- fewer than the two bytes every instruction has (R70) -/
  | truncated (length : Nat)
  deriving DecidableEq, Repr

/-- `kind`, bits 15 to 12 (R71). -/
def kindOf (w : Word) : BitVec 4 := w.extractLsb' 12 4

/-- `x`, bits 11 to 8 (R71), as a register number. -/
def xOf (w : Word) : Reg := (w.extractLsb' 8 4).toFin

/-- `y`, bits 7 to 4 (R71), as a register number. -/
def yOf (w : Word) : Reg := (w.extractLsb' 4 4).toFin

/-- `n`, bits 3 to 0 (R71). -/
def nOf (w : Word) : BitVec 4 := w.extractLsb' 0 4

/-- `nn`, bits 7 to 0 (R71). -/
def nnOf (w : Word) : Byte := w.extractLsb' 0 8

/-- `nnn`, bits 11 to 0 (R71). -/
def nnnOf (w : Word) : BitVec 12 := w.extractLsb' 0 12

/-- The 0 family, by the whole word and in this order (R80). -/
def decode0 (w : Word) : Decoded :=
  if w = 0x00E0#16 then .instr .cls
  else if w = 0x00EE#16 then .instr .ret
  else .instr (.sys (nnnOf w))

/-- The 5 family: only `n` = 0 is an instruction (R81). -/
def decode5 (w : Word) : Decoded :=
  if nOf w = 0x0#4 then .instr (.seReg (xOf w) (yOf w)) else .unrecognized w

/-- The 8 family, by `n` (R77). -/
def decode8 (w : Word) : Decoded :=
  match nOf w with
  | 0x0#4 => .instr (.ldReg (xOf w) (yOf w))
  | 0x1#4 => .instr (.orReg (xOf w) (yOf w))
  | 0x2#4 => .instr (.andReg (xOf w) (yOf w))
  | 0x3#4 => .instr (.xorReg (xOf w) (yOf w))
  | 0x4#4 => .instr (.addReg (xOf w) (yOf w))
  | 0x5#4 => .instr (.subReg (xOf w) (yOf w))
  | 0x6#4 => .instr (.shr (xOf w) (yOf w))
  | 0x7#4 => .instr (.subnReg (xOf w) (yOf w))
  | 0xE#4 => .instr (.shl (xOf w) (yOf w))
  | _ => .unrecognized w

/-- The 9 family: only `n` = 0 is an instruction (R81). -/
def decode9 (w : Word) : Decoded :=
  if nOf w = 0x0#4 then .instr (.sneReg (xOf w) (yOf w)) else .unrecognized w

/-- The E family, by `nn` (R78). -/
def decodeE (w : Word) : Decoded :=
  match nnOf w with
  | 0x9E#8 => .instr (.skp (xOf w))
  | 0xA1#8 => .instr (.sknp (xOf w))
  | _ => .unrecognized w

/-- The F family, by `nn` (R79). -/
def decodeF (w : Word) : Decoded :=
  match nnOf w with
  | 0x07#8 => .instr (.ldVxDt (xOf w))
  | 0x0A#8 => .instr (.ldVxK (xOf w))
  | 0x15#8 => .instr (.ldDtVx (xOf w))
  | 0x18#8 => .instr (.ldStVx (xOf w))
  | 0x1E#8 => .instr (.addI (xOf w))
  | 0x29#8 => .instr (.ldF (xOf w))
  | 0x33#8 => .instr (.ldB (xOf w))
  | 0x55#8 => .instr (.stRegs (xOf w))
  | 0x65#8 => .instr (.ldRegs (xOf w))
  | _ => .unrecognized w

/-- `decode` and the dispatch of a word by kind (R72, R75, R76). Total; the last arm is kind 0xF. -/
def decodeWord (w : Word) : Decoded :=
  match kindOf w with
  | 0x0#4 => decode0 w
  | 0x1#4 => .instr (.jp (nnnOf w))
  | 0x2#4 => .instr (.call (nnnOf w))
  | 0x3#4 => .instr (.seImm (xOf w) (nnOf w))
  | 0x4#4 => .instr (.sneImm (xOf w) (nnOf w))
  | 0x5#4 => decode5 w
  | 0x6#4 => .instr (.ldImm (xOf w) (nnOf w))
  | 0x7#4 => .instr (.addImm (xOf w) (nnOf w))
  | 0x8#4 => decode8 w
  | 0x9#4 => decode9 w
  | 0xA#4 => .instr (.ldI (nnnOf w))
  | 0xB#4 => .instr (.jpV0 (nnnOf w))
  | 0xC#4 => .instr (.rnd (xOf w) (nnOf w))
  | 0xD#4 => .instr (.drw (xOf w) (yOf w) (nOf w))
  | 0xE#4 => decodeE w
  | _ => decodeF w

/-- The word of two bytes, the first one high (20_memory.md R52). -/
def wordOfBytes (hi lo : Byte) : Word := hi ++ lo

/-- The byte of a word at the lower address (R52). -/
def highByte (w : Word) : Byte := w.extractLsb' 8 8

/-- The byte of a word at the higher address (R52). -/
def lowByte (w : Word) : Byte := w.extractLsb' 0 8

/-- The decoder on bytes in address order: the first two bytes are one word, the rest is left over (R70). -/
def decode (bs : List Byte) : Except DecodeError (Instr × List Byte) :=
  match bs with
  | hi :: lo :: rest =>
    match decodeWord (wordOfBytes hi lo) with
    | .instr i => .ok (i, rest)
    | .unrecognized w => .error (.unrecognized w)
  | [_] => .error (.truncated 1)
  | [] => .error (.truncated 0)

/-- A word of format `nnn` (R74). -/
def wordNnn (kind : BitVec 4) (nnn : BitVec 12) : Word := kind ++ nnn

/-- A word of format `xnn` (R74). -/
def wordXnn (kind : BitVec 4) (x : Reg) (nn : Byte) : Word := kind ++ (BitVec.ofFin x : BitVec 4) ++ nn

/-- A word of format `xy` or `xyn` (R74). -/
def wordXyn (kind : BitVec 4) (x y : Reg) (n : BitVec 4) : Word :=
  kind ++ (BitVec.ofFin x : BitVec 4) ++ (BitVec.ofFin y : BitVec 4) ++ n

/-- The encoder: the word of an instruction, from the formats of R74 and the dispatch tables R76 to R81. -/
def encode (i : Instr) : Word :=
  match i with
  | .sys nnn => wordNnn 0x0#4 nnn
  | .cls => 0x00E0#16
  | .ret => 0x00EE#16
  | .jp nnn => wordNnn 0x1#4 nnn
  | .call nnn => wordNnn 0x2#4 nnn
  | .seImm x nn => wordXnn 0x3#4 x nn
  | .sneImm x nn => wordXnn 0x4#4 x nn
  | .seReg x y => wordXyn 0x5#4 x y 0x0#4
  | .ldImm x nn => wordXnn 0x6#4 x nn
  | .addImm x nn => wordXnn 0x7#4 x nn
  | .ldReg x y => wordXyn 0x8#4 x y 0x0#4
  | .orReg x y => wordXyn 0x8#4 x y 0x1#4
  | .andReg x y => wordXyn 0x8#4 x y 0x2#4
  | .xorReg x y => wordXyn 0x8#4 x y 0x3#4
  | .addReg x y => wordXyn 0x8#4 x y 0x4#4
  | .subReg x y => wordXyn 0x8#4 x y 0x5#4
  | .shr x y => wordXyn 0x8#4 x y 0x6#4
  | .subnReg x y => wordXyn 0x8#4 x y 0x7#4
  | .shl x y => wordXyn 0x8#4 x y 0xE#4
  | .sneReg x y => wordXyn 0x9#4 x y 0x0#4
  | .ldI nnn => wordNnn 0xA#4 nnn
  | .jpV0 nnn => wordNnn 0xB#4 nnn
  | .rnd x nn => wordXnn 0xC#4 x nn
  | .drw x y n => wordXyn 0xD#4 x y n
  | .skp x => wordXnn 0xE#4 x 0x9E#8
  | .sknp x => wordXnn 0xE#4 x 0xA1#8
  | .ldVxDt x => wordXnn 0xF#4 x 0x07#8
  | .ldVxK x => wordXnn 0xF#4 x 0x0A#8
  | .ldDtVx x => wordXnn 0xF#4 x 0x15#8
  | .ldStVx x => wordXnn 0xF#4 x 0x18#8
  | .addI x => wordXnn 0xF#4 x 0x1E#8
  | .ldF x => wordXnn 0xF#4 x 0x29#8
  | .ldB x => wordXnn 0xF#4 x 0x33#8
  | .stRegs x => wordXnn 0xF#4 x 0x55#8
  | .ldRegs x => wordXnn 0xF#4 x 0x65#8

/-- An instruction's bytes in address order (R52). -/
def encodeBytes (i : Instr) : List Byte := [highByte (encode i), lowByte (encode i)]

/-- The row of spec/opcode_table.json an instruction belongs to, as (mask, match). -/
def opcodeRow (i : Instr) : Word × Word :=
  match i with
  | .sys _ => (0xF000#16, 0x0000#16)
  | .cls => (0xFFFF#16, 0x00E0#16)
  | .ret => (0xFFFF#16, 0x00EE#16)
  | .jp _ => (0xF000#16, 0x1000#16)
  | .call _ => (0xF000#16, 0x2000#16)
  | .seImm _ _ => (0xF000#16, 0x3000#16)
  | .sneImm _ _ => (0xF000#16, 0x4000#16)
  | .seReg _ _ => (0xF00F#16, 0x5000#16)
  | .ldImm _ _ => (0xF000#16, 0x6000#16)
  | .addImm _ _ => (0xF000#16, 0x7000#16)
  | .ldReg _ _ => (0xF00F#16, 0x8000#16)
  | .orReg _ _ => (0xF00F#16, 0x8001#16)
  | .andReg _ _ => (0xF00F#16, 0x8002#16)
  | .xorReg _ _ => (0xF00F#16, 0x8003#16)
  | .addReg _ _ => (0xF00F#16, 0x8004#16)
  | .subReg _ _ => (0xF00F#16, 0x8005#16)
  | .shr _ _ => (0xF00F#16, 0x8006#16)
  | .subnReg _ _ => (0xF00F#16, 0x8007#16)
  | .shl _ _ => (0xF00F#16, 0x800E#16)
  | .sneReg _ _ => (0xF00F#16, 0x9000#16)
  | .ldI _ => (0xF000#16, 0xA000#16)
  | .jpV0 _ => (0xF000#16, 0xB000#16)
  | .rnd _ _ => (0xF000#16, 0xC000#16)
  | .drw _ _ _ => (0xF000#16, 0xD000#16)
  | .skp _ => (0xF0FF#16, 0xE09E#16)
  | .sknp _ => (0xF0FF#16, 0xE0A1#16)
  | .ldVxDt _ => (0xF0FF#16, 0xF007#16)
  | .ldVxK _ => (0xF0FF#16, 0xF00A#16)
  | .ldDtVx _ => (0xF0FF#16, 0xF015#16)
  | .ldStVx _ => (0xF0FF#16, 0xF018#16)
  | .addI _ => (0xF0FF#16, 0xF01E#16)
  | .ldF _ => (0xF0FF#16, 0xF029#16)
  | .ldB _ => (0xF0FF#16, 0xF033#16)
  | .stRegs _ => (0xF0FF#16, 0xF055#16)
  | .ldRegs _ => (0xF0FF#16, 0xF065#16)

/-- The instruction word of `nbits` bits valued `w`, bit 0 the least significant bit of the one 16-bit word (R10);
bits at and above `nbits` are 0. -/
def tableWord (nbits w : Nat) : Word := BitVec.ofNat 16 (w % 2 ^ nbits)

/-- What the decoder reads from a word of the opcode table laid out as the machine stores it, high byte first. -/
def decodeTableWord (nbits w : Nat) : Option Instr :=
  match decode [highByte (tableWord nbits w), lowByte (tableWord nbits w)] with
  | .ok (i, _) => some i
  | .error _ => none

end Sys2Proof
end

