-- ==== Sys2Proof/Config.lean ====
section
/-! DEFINITION. What the spec leaves to the implementation (00_scope.md R9): the named parameters, and the
one value it leaves free, the random byte of `CXNN`. -/

namespace Sys2Proof

/-- SHIFT_SOURCE: the register `8XY6` and `8XYE` shift (D6). -/
inductive ShiftSource where
  | vy
  | vx
  deriving DecidableEq, Repr

/-- LOADSTORE_I: what `FX55` and `FX65` do to `I` afterwards (D7). -/
inductive LoadStoreI where
  | advance
  | keep
  deriving DecidableEq, Repr

/-- UNKNOWN_PC: what an unrecognized word does to `pc` (D5). -/
inductive UnknownPc where
  | advance
  | hold
  deriving DecidableEq, Repr

/-- LOW_WRITE: what a write whose first address is below 0x200 does (D10). -/
inductive LowWrite where
  | fault
  | allow
  deriving DecidableEq, Repr

/-- The parameters of R9 that a step reads, fixed for one machine. FONT is read at construction only and is an
argument of `construct`; `random_byte` is `Config.randomByte`. (Log entry 1, DESIGN CHOICE, safe: they are carried
in the state as a field no operation changes, so that a claim is proved for every value of them.) -/
structure Config where
  shiftSource  : ShiftSource
  loadStoreI   : LoadStoreI
  logicVfReset : Bool
  unknownPc    : UnknownPc
  lowWrite     : LowWrite
  stackDepth   : Nat
  deriving DecidableEq, Repr

/-- R9's only condition on a parameter: `STACK_DEPTH` is at least 1. -/
def Config.wf (c : Config) : Bool := decide (1 ≤ c.stackDepth)

/-- `random_byte` (41_alu.md R131, D15): the byte of the n-th draw, a free value. It has no body: no proof can see
which byte it is. (Log entry 2, DESIGN CHOICE.) -/
opaque Config.randomByte : Nat → Byte

end Sys2Proof
end

