-- ==== Sys2Proof/Machine/State.lean ====
section
/-! DEFINITION. The state of the machine (10_state.md R20), the reasons a step can stop, and the state after
reset (70_reset_and_hazards.md R250). The fields carry the spec's own names. -/

namespace Sys2Proof.Machine

/-- The cause of a Fatal (60_exceptions.md R220). -/
inductive Cause where
  /-- `pc > 4094` at the fetch (40_control.md R91) -/
  | fetchOutOfRange
  /-- `00EE` with an empty stack (R97) -/
  | stackUnderflow
  /-- `2NNN` with a full stack (R98) -/
  | stackOverflow
  /-- `DXYN`, `FX33`, `FX55`, `FX65` past address 4095 (20_memory.md R55) -/
  | memoryOutOfRange
  /-- `FX33`, `FX55` with `I < 0x200` under LOW_WRITE = fault (R59) -/
  | reservedWrite
  deriving DecidableEq, Repr

/-- The number the spec gives a cause (R220, D19: "The numbers are only labels"). -/
def Cause.code (c : Cause) : Nat :=
  match c with
  | .fetchOutOfRange => 1
  | .stackUnderflow => 2
  | .stackOverflow => 3
  | .memoryOutOfRange => 4
  | .reservedWrite => 5

/-- Why a step ends in no next state. -/
inductive Fault where
  /-- Raised by `step` alone, on a machine whose fault record is already set: execution has ended for good, and the
  call answers the recorded cause and changes nothing (60_exceptions.md R226; R229 "Only `Fatal` is terminal").
  Safe: no instruction runs there on the hardware either. Raising a Fatal is not this: it is a next state with the
  record written (R220; log entry 5). -/
  | fatal (cause : Cause) (pc : Word)
  deriving DecidableEq, Repr

/-- Why an operation has no meaning. -/
inductive Refusal where
  /-- Raised by an arm of `exec` that gives its instruction no meaning; no arm does. Safe. -/
  | notModelled (mnemonic : String)
  /-- Raised by the host operation `keyEvent` for a code outside 0 to 15: "refused. The model has no transition for
  it" (44_timers_keys.md R207, D17). Never raised by a step. Safe. -/
  | keyCodeOutOfRange (code : Nat)
  deriving DecidableEq, Repr

/-- What `step()` returns to the host (60_exceptions.md R229). It is no part of the state. -/
inductive StepOutcome where
  /-- an instruction completed, its epilogue included -/
  | executed
  /-- `awaiting` was set, and nothing changed -/
  | waiting
  /-- the fetched word names no instruction (R228) -/
  | unrecognized (w : Word)
  /-- a fault of this cause was raised now, or one was recorded before (R226) -/
  | fatal (c : Cause)
  deriving DecidableEq, Repr

/-- Memory: the bytes that differ from what `background` gives, as (address, byte) pairs with addresses strictly
rising (canonical form: `memoryWf` in Machine/Memory.lean). -/
abbrev Memory := List Host.Cell

/-- The framebuffer: 32 rows of 64 one-bit pixels (10_state.md R32). Column c of a row is its bit c. -/
abbrev Frame := Vector (BitVec 64) 32

/-- The state of the machine. The first eleven fields are the record of 10_state.md R20, `cfg` and `draws` are the
model's own (log entries 1 and 2). -/
structure State where
  /-- memory, 0x000 to 0xFFF (20_memory.md R50) -/
  mem      : Memory
  /-- general registers `V0` to `VF` (R21, R22) -/
  V        : Vector Byte 16
  /-- index register (R26) -/
  I        : Word
  /-- program counter (R23) -/
  pc       : Word
  /-- return addresses, the last element is the top (R27) -/
  stack    : List Word
  /-- delay timer (R29) -/
  DT       : Byte
  /-- sound timer (R29) -/
  ST       : Byte
  /-- keypad, true means pressed (R30) -/
  KEY      : Vector Bool 16
  /-- the register a key wait will write, or none while running (R31) -/
  awaiting : Option Reg
  /-- framebuffer (R32) -/
  FB       : Frame
  /-- the fault record: cause and `pc` of the fault (R33) -/
  fault    : Option (Cause × Word)
  /-- the parameters of 00_scope.md R9, which no operation changes -/
  cfg      : Config
  /-- how many random bytes have been drawn; feeds `Config.randomByte` -/
  draws    : Nat
  deriving DecidableEq, Repr

/-- The state `construct` leaves, with no ROM byte placed (70_reset_and_hazards.md R250; log entry 4), and with the
default parameters of 00_scope.md R9. -/
def State.reset : State where
  mem := []
  V := Vector.replicate 16 0x00#8
  I := 0x200#16
  pc := 0x200#16
  stack := []
  DT := 0x00#8
  ST := 0x00#8
  KEY := Vector.replicate 16 false
  awaiting := none
  FB := Vector.replicate 32 0#64
  fault := none
  cfg := defaultConfig
  draws := 0

end Sys2Proof.Machine
end

