-- ==== Sys2Proof/Machine/Flags.lean ====
section
/-! DEFINITION. The flag computations: every value an instruction writes to `VF` as a flag (10_state.md R22),
as a function of the operands. -/

namespace Sys2Proof.Machine

/-- A condition as the flag byte 0x01 or 0x00. -/
def flagOf (p : Bool) : Byte := if p then 0x01#8 else 0x00#8

/-- `8XY4`: 1 when the unmodular sum exceeds 255 (41_alu.md R126, R132). -/
def carryFlag (a b : Byte) : Byte := flagOf (decide (255 < a.toNat + b.toNat))

/-- `8XY5`, `8XY7`: 1 for no borrow, when the minuend is at least the subtrahend (R127, R129, R132). -/
def noBorrowFlag (minuend subtrahend : Byte) : Byte := flagOf (decide (subtrahend.toNat ≤ minuend.toNat))

/-- `8XY6`: bit 0 of the shift source (R128). -/
def shiftedOutRight (v : Byte) : Byte := v &&& 0x01#8

/-- `8XYE`: bit 7 of the shift source (R130). -/
def shiftedOutLeft (v : Byte) : Byte := (v >>> 7) &&& 0x01#8

/-- `DXYN`: 1 when a lit sprite pixel fell on a lit pixel (43_display.md R176). -/
def collisionFlag (hit : Bool) : Byte := flagOf hit

end Sys2Proof.Machine
end

