-- ==== Sys2Proof/Machine/Memory.lean ====
section
/-! DEFINITION. Memory: 4096 bytes (20_memory.md R50) as a list of the bytes that differ from the reset contents,
in one canonical form. -/

namespace Sys2Proof.Machine

/-- How many bytes memory holds (R50). -/
def memSize : Nat := 4096

/-- What an address no cell lists reads as: the contents `construct` leaves where no ROM byte stands, the default
FONT at 0x000 to 0x04F and zero elsewhere (70_reset_and_hazards.md R250, R252; log entry 3). -/
def background (a : Nat) : Byte := defaultFont.getD a 0x00#8

/-- The byte at address `a` (R58: a read changes nothing). -/
def Memory.read (m : Memory) (a : Nat) : Byte :=
  match m with
  | [] => background a
  | (c, b) :: m' => if c = a then b else Memory.read m' a

/-- `m` without any cell of `a`. -/
def Memory.erase (m : Memory) (a : Nat) : Memory :=
  match m with
  | [] => []
  | (c, d) :: m' => if c = a then Memory.erase m' a else (c, d) :: Memory.erase m' a

/-- `m`, which has no cell of `a`, with the cell of `a` holding `b` before the first higher address. -/
def Memory.insert (m : Memory) (a : Nat) (b : Byte) : Memory :=
  match m with
  | [] => [(a, b)]
  | (c, d) :: m' => if a < c then (a, b) :: (c, d) :: m' else (c, d) :: Memory.insert m' a b

/-- Put `b` at `a`: no cell where `b` is what `a` reads as anyway, so that equal memories are equal data. -/
def Memory.put (m : Memory) (a : Nat) (b : Byte) : Memory :=
  if b = background a then Memory.erase m a else Memory.insert (Memory.erase m a) a b

/-- Write one byte (R58: only the addressed byte changes). There is no byte at 4096 or above; every access is
checked before it is made (20_memory.md R55), and a write there would be dropped (log entry 10). -/
def Memory.write (m : Memory) (a : Nat) (b : Byte) : Memory :=
  if a < memSize then Memory.put m a b else m

/-- `MemRead(a, n)`: the bytes at `a` to `a + n - 1` (00_scope.md R11). -/
def Memory.readBytes (m : Memory) (a : Nat) (n : Nat) : List Byte :=
  match n with
  | 0 => []
  | k + 1 => Memory.read m a :: Memory.readBytes m (a + 1) k

/-- `MemWrite(a, n, bs)`: write the bytes of `bs` at `a` onwards, in increasing address order (R11, R57). -/
def Memory.writeBytes (m : Memory) (a : Nat) (bs : List Byte) : Memory :=
  match bs with
  | [] => m
  | b :: rest => Memory.writeBytes (Memory.write m a b) (a + 1) rest

/-- The cells are in canonical form above `low`: addresses at least `low`, strictly rising, below 4096, and no cell
equal to the background. -/
def Memory.wfFrom (low : Nat) (m : Memory) : Bool :=
  match m with
  | [] => true
  | (c, b) :: m' => decide (low ≤ c) && decide (c < memSize) && b != background c && Memory.wfFrom (c + 1) m'

/-- The canonical form of memory, so that equal memories are equal data. -/
def Memory.wf (m : Memory) : Bool := Memory.wfFrom 0 m

end Sys2Proof.Machine
end

