-- ==== Sys2Proof/Machine/Ops.lean ====
section
/-! DEFINITION. The named operations over the state that the spec's pseudocode uses (00_scope.md R11): registers,
`pc` and the epilogue, the stack, checked memory accesses, pixels, and raising a Fatal (60_exceptions.md R220). -/

namespace Sys2Proof.Machine

/-- The number of `VF`, the flag register (10_state.md R22). -/
def vfReg : Reg := 15

/-- `V[r]` (R11, 10_state.md R21). -/
def State.reg (s : State) (r : Reg) : Byte := s.V[r.val]'r.isLt

/-- `V[r] <- v` (R11). No register is hard-wired (R21). -/
def State.setReg (s : State) (r : Reg) (v : Byte) : State := { s with V := s.V.set r.val v r.isLt }

/-- `VF <- v` (R22). -/
def State.setFlag (s : State) (v : Byte) : State := s.setReg vfReg v

/-- `I <- v` (R26). -/
def State.setI (s : State) (v : Word) : State := { s with I := v }

/-- Memory replaced whole, by the checked writes below. -/
def State.setMem (s : State) (m : Memory) : State := { s with mem := m }

/-- The stack replaced whole, by `push` and `pop` below (R27). -/
def State.setStack (s : State) (l : List Word) : State := { s with stack := l }

/-- `DT <- v` (R29). -/
def State.setDT (s : State) (v : Byte) : State := { s with DT := v }

/-- `ST <- v` (R29). -/
def State.setST (s : State) (v : Byte) : State := { s with ST := v }

/-- `awaiting <- a` (R31). -/
def State.setAwaiting (s : State) (a : Option Reg) : State := { s with awaiting := a }

/-- The framebuffer replaced whole, by `00E0` and `DXYN` (R32). -/
def State.setFB (s : State) (fb : Frame) : State := { s with FB := fb }

/-- `pc <- target` with no epilogue (40_control.md R92: `1NNN`, `2NNN`, `BNNN`). -/
def State.jump (s : State) (target : Word) : State := { s with pc := target }

/-- The default epilogue: `pc <- pc + 2` (R92). -/
def State.epilogue (s : State) : State := s.jump (s.pc + 2#16)

/-- The skip of R93 and then the epilogue: `pc + 4` in total when the condition holds, else `pc + 2`. -/
def State.skipIf (s : State) (cond : Bool) : State :=
  if cond then (s.jump (s.pc + 2#16)).epilogue else s.epilogue

/-- `KEY[k]` (10_state.md R30). -/
def State.keyDown (s : State) (k : Key) : Bool := s.KEY[k.val]'k.isLt

/-- `KEY[k] <- pressed` (44_timers_keys.md R206). -/
def State.setKey (s : State) (k : Key) (pressed : Bool) : State := { s with KEY := s.KEY.set k.val pressed k.isLt }

/-- Taking a Fatal: `fault <- (c, pc)`, and no other state changes (60_exceptions.md R220, R223). There is no
handler, no mode and no return (R226, R227): this record is all the entry there is. -/
def State.raiseFatal (s : State) (c : Cause) : State := { s with fault := some (c, s.pc) }

/-- How an instruction ends: its own next state, or the Fatal its first failing check raised, both next states
(R90, R220). -/
def State.complete (s : State) (r : Except Cause State) : Host.Outcome State Fault Refusal :=
  match r with
  | .ok t => .next t
  | .error c => .next (s.raiseFatal c)

/-- `push(v)` (10_state.md R27): StackOverflow when the stack holds STACK_DEPTH entries (log entry 9). -/
def State.push (s : State) (v : Word) : Except Cause State :=
  if s.stack.length = s.cfg.stackDepth then .error .stackOverflow
  else .ok (s.setStack (s.stack ++ [v]))

/-- `pop()` (R27): the last element and the state without it; StackUnderflow on an empty stack. -/
def State.pop (s : State) : Except Cause (Word × State) :=
  match s.stack.getLast? with
  | none => .error .stackUnderflow
  | some v => .ok (v, s.setStack s.stack.dropLast)

/-- The range check of 20_memory.md R55 on an access of `n` bytes at `I`, over the naturals, for every `n`. -/
def State.inRange (s : State) (n : Nat) : Bool := decide (s.I.toNat + n ≤ memSize)

/-- The reserved-region check of R59: only the first address matters. -/
def State.reserved (s : State) : Bool := decide (s.cfg.lowWrite = .fault) && decide (s.I.toNat < 0x200)

/-- Read `n` bytes at `I`, after the range check (R55; reads from the reserved region are legal, R59). -/
def State.loadAtI (s : State) (n : Nat) : Except Cause (List Byte) :=
  if s.inRange n then .ok (s.mem.readBytes s.I.toNat n) else .error .memoryOutOfRange

/-- Write the bytes `bs` at `I`, after the range check and then the reserved-region check (R55, R59, R224). -/
def State.storeAtI (s : State) (bs : List Byte) : Except Cause State :=
  if s.inRange bs.length then
    if s.reserved then .error .reservedWrite
    else .ok (s.setMem (s.mem.writeBytes s.I.toNat bs))
  else .error .memoryOutOfRange

/-- `I` after `FX55` or `FX65` has moved `k` bytes: `I + k` under LOADSTORE_I = advance, else unchanged
(42_index_memory.md R154, R155). -/
def State.advanceI (s : State) (k : Nat) : State :=
  match s.cfg.loadStoreI with
  | .advance => s.setI (s.I + BitVec.ofNat 16 k)
  | .keep => s

/-- `V[0]` to `V[k-1]`, in order (R154). -/
def State.firstRegs (s : State) (k : Nat) : List Byte := s.V.toList.take k

/-- `V[i] <- bs[i]` for every `i` below the length of `bs` (R155). -/
def State.setFirstRegs (s : State) (bs : List Byte) : State :=
  { s with V := Vector.ofFn fun r : Reg => bs.getD r.val (s.reg r) }

/-- A fresh random byte (41_alu.md R131): the free value of the next draw. -/
def State.drawByte (s : State) : Byte := Config.randomByte s.draws

/-- The draw has been made: the next one is a fresh free value (log entry 2). -/
def State.countDraw (s : State) : State := { s with draws := s.draws + 1 }

/-- `FB[r][c]` (10_state.md R32). -/
def Frame.pixel (fb : Frame) (r : Fin 32) (c : Fin 64) : Bool := (fb[r.val]'r.isLt).getLsbD c.val

/-- `FB[r][c] <- FB[r][c] ^ 1` (43_display.md R174). -/
def Frame.flip (fb : Frame) (r : Fin 32) (c : Fin 64) : Frame :=
  fb.set r.val ((fb[r.val]'r.isLt) ^^^ (1#64 <<< c.val)) r.isLt

/-- Every pixel off (43_display.md R170). -/
def Frame.blank : Frame := Vector.replicate 32 0#64

end Sys2Proof.Machine
end

