-- ==== Sys2Proof/Machine/Operands.lean ====
section
/-! DEFINITION. The operand forms: what an instruction computes its operands from, read from the state before any
write (00_scope.md R12). -/

namespace Sys2Proof.Machine

/-- `zext_16(nnn)` (30_encoding.md R73). -/
def addrOf (nnn : BitVec 12) : Word := nnn.setWidth 16

/-- `zext_16(v)` of a register value (40_control.md R99, 42_index_memory.md R151). -/
def wordOf (v : Byte) : Word := v.setWidth 16

/-- The low nibble of a register value, as a key or a glyph number (44_timers_keys.md R193, 42_index_memory.md R152). -/
def lowNibble (v : Byte) : Fin 16 := ⟨(v &&& 0x0F#8).toNat % 16, Nat.mod_lt _ (by decide)⟩

/-- The shift source `s` of `8XY6` and `8XYE`: `y` under SHIFT_SOURCE = vy, `x` under vx (41_alu.md R128). -/
def State.shiftReg (s : State) (x y : Reg) : Reg :=
  match s.cfg.shiftSource with
  | .vy => y
  | .vx => x

/-- The address of a glyph: `zext_16(V[x] & 0x0F) * 5` (42_index_memory.md R152). -/
def glyphAddr (v : Byte) : Word := BitVec.ofNat 16 ((lowNibble v).val * 5)

/-- The three decimal digits of a byte, hundreds first (42_index_memory.md R153). -/
def bcdDigits (v : Byte) : List Byte :=
  [BitVec.ofNat 8 (v.toNat / 100), BitVec.ofNat 8 (v.toNat / 10 % 10), BitVec.ofNat 8 (v.toNat % 10)]

/-- How many registers `FX55` and `FX65` move: `x + 1` (R154, R155). -/
def regCount (x : Reg) : Nat := x.val + 1

end Sys2Proof.Machine
end

