-- ==== Sys2Proof/Machine/Alu.lean ====
section
/-! DEFINITION. Register loads, arithmetic, logic, shifts and random (41_alu.md R120 to R131). Operands are read
first, the result is written, and `VF` is written last (00_scope.md R12, D2). -/

namespace Sys2Proof.Machine

/-- The result to `V[x]`, then the flag to `VF`, then the epilogue: with `x` = 0xF the flag stays (D2). -/
def State.writeResult (s : State) (x : Reg) (v flag : Byte) : State := ((s.setReg x v).setFlag flag).epilogue

/-- The result of `8XY1`, `8XY2`, `8XY3` to `V[x]`; then `VF <- 0` under LOGIC_VF_RESET (R123, D29). -/
def State.writeLogic (s : State) (x : Reg) (v : Byte) : State :=
  if s.cfg.logicVfReset then s.writeResult x v 0x00#8 else (s.setReg x v).epilogue

/-- `6XNN`: `V[x] <- nn` (R120). -/
def execLdImm (x : Reg) (nn : Byte) (s : State) : Host.Outcome State Fault Refusal :=
  .next (s.setReg x nn).epilogue

/-- `7XNN`: `V[x] <- (V[x] + nn) mod 256`, no flag (R121). -/
def execAddImm (x : Reg) (nn : Byte) (s : State) : Host.Outcome State Fault Refusal :=
  .next (s.setReg x (s.reg x + nn)).epilogue

/-- `8XY0`: `V[x] <- V[y]` (R122). -/
def execLdReg (x y : Reg) (s : State) : Host.Outcome State Fault Refusal :=
  .next (s.setReg x (s.reg y)).epilogue

/-- `8XY1`: bitwise OR (R123). -/
def execOrReg (x y : Reg) (s : State) : Host.Outcome State Fault Refusal :=
  .next (s.writeLogic x (s.reg x ||| s.reg y))

/-- `8XY2`: bitwise AND (R124). -/
def execAndReg (x y : Reg) (s : State) : Host.Outcome State Fault Refusal :=
  .next (s.writeLogic x (s.reg x &&& s.reg y))

/-- `8XY3`: bitwise XOR (R125). -/
def execXorReg (x y : Reg) (s : State) : Host.Outcome State Fault Refusal :=
  .next (s.writeLogic x (s.reg x ^^^ s.reg y))

/-- `8XY4`: the sum mod 256; `VF` is the carry (R126). -/
def execAddReg (x y : Reg) (s : State) : Host.Outcome State Fault Refusal :=
  .next (s.writeResult x (s.reg x + s.reg y) (carryFlag (s.reg x) (s.reg y)))

/-- `8XY5`: `V[x] - V[y]` mod 256; `VF` is 1 for no borrow (R127). -/
def execSubReg (x y : Reg) (s : State) : Host.Outcome State Fault Refusal :=
  .next (s.writeResult x (s.reg x - s.reg y) (noBorrowFlag (s.reg x) (s.reg y)))

/-- `8XY6`: the shift source right by one; `VF` is its bit 0 (R128). -/
def execShr (x y : Reg) (s : State) : Host.Outcome State Fault Refusal :=
  .next (s.writeResult x (s.reg (s.shiftReg x y) >>> 1) (shiftedOutRight (s.reg (s.shiftReg x y))))

/-- `8XY7`: `V[y] - V[x]` mod 256; `VF` is 1 for no borrow (R129). -/
def execSubnReg (x y : Reg) (s : State) : Host.Outcome State Fault Refusal :=
  .next (s.writeResult x (s.reg y - s.reg x) (noBorrowFlag (s.reg y) (s.reg x)))

/-- `8XYE`: the shift source left by one; `VF` is its bit 7 (R130). -/
def execShl (x y : Reg) (s : State) : Host.Outcome State Fault Refusal :=
  .next (s.writeResult x (s.reg (s.shiftReg x y) <<< 1) (shiftedOutLeft (s.reg (s.shiftReg x y))))

/-- `CXNN` with the draw `r`: `V[x] <- r & nn` (R131). -/
def State.writeRandom (s : State) (x : Reg) (nn r : Byte) : State := (s.countDraw.setReg x (r &&& nn)).epilogue

/-- `CXNN`: draw a random byte and mask it (R131, D15). -/
def execRnd (x : Reg) (nn : Byte) (s : State) : Host.Outcome State Fault Refusal :=
  .next (s.writeRandom x nn s.drawByte)

end Sys2Proof.Machine
end

