-- ==== Sys2Proof/Machine/Control.lean ====
section
/-! DEFINITION. The control-transfer instructions of 40_control.md: `0NNN`, `00EE`, `1NNN`, `2NNN`, `BNNN` and the
skips on registers and immediates. -/

namespace Sys2Proof.Machine

/-- `0NNN`: no operation, and the epilogue (R95, D3). -/
def execSys (_nnn : BitVec 12) (s : State) : Host.Outcome State Fault Refusal := .next s.epilogue

/-- `00EE`: `pc <- pop()`, and then the default epilogue on the popped address (R97). -/
def execRet (s : State) : Host.Outcome State Fault Refusal :=
  s.complete <|
    match s.pop with
    | .ok (v, t) => .ok (t.jump v).epilogue
    | .error c => .error c

/-- `1NNN`: `pc <- nnn`, no epilogue (R96). -/
def execJp (nnn : BitVec 12) (s : State) : Host.Outcome State Fault Refusal := .next (s.jump (addrOf nnn))

/-- `2NNN`: `push(pc)`, then `pc <- nnn`, no epilogue (R98). -/
def execCall (nnn : BitVec 12) (s : State) : Host.Outcome State Fault Refusal :=
  s.complete <|
    match s.push s.pc with
    | .ok t => .ok (t.jump (addrOf nnn))
    | .error c => .error c

/-- `BNNN`: `pc <- nnn + V0`, a 16-bit sum that is not masked, no epilogue (R99, D13). -/
def execJpV0 (nnn : BitVec 12) (s : State) : Host.Outcome State Fault Refusal :=
  .next (s.jump (addrOf nnn + wordOf (s.reg 0)))

/-- `3XNN`: skip if `V[x] = nn` (R100). -/
def execSeImm (x : Reg) (nn : Byte) (s : State) : Host.Outcome State Fault Refusal :=
  .next (s.skipIf (s.reg x == nn))

/-- `4XNN`: skip if `V[x] != nn` (R101). -/
def execSneImm (x : Reg) (nn : Byte) (s : State) : Host.Outcome State Fault Refusal :=
  .next (s.skipIf (s.reg x != nn))

/-- `5XY0`: skip if `V[x] = V[y]` (R102). -/
def execSeReg (x y : Reg) (s : State) : Host.Outcome State Fault Refusal :=
  .next (s.skipIf (s.reg x == s.reg y))

/-- `9XY0`: skip if `V[x] != V[y]` (R103). -/
def execSneReg (x y : Reg) (s : State) : Host.Outcome State Fault Refusal :=
  .next (s.skipIf (s.reg x != s.reg y))

end Sys2Proof.Machine
end

