-- ==== Sys2Proof/Machine/Display.lean ====
section
/-! DEFINITION. The display compositor (43_display.md R170 to R177): clearing, and the XOR sprite draw with
wraparound and collision. -/

namespace Sys2Proof.Machine

/-- What a draw has done so far: the framebuffer and whether a lit pixel was hit (R174). -/
structure Canvas where
  fb  : Frame
  hit : Bool
  deriving DecidableEq, Repr

/-- Whether column `w` of a sprite row is lit: bit `7 - w`, the most significant bit leftmost (R172). -/
def spriteBit (b : Byte) (w : Nat) : Bool := b.getLsbD (7 - w)

/-- The screen row of sprite row `h` (R173). -/
def screenRow (cy : Byte) (h : Nat) : Fin 32 := ⟨(cy.toNat + h) % 32, Nat.mod_lt _ (by decide)⟩

/-- The screen column of sprite column `w` (R173). -/
def screenCol (cx : Byte) (w : Nat) : Fin 64 := ⟨(cx.toNat + w) % 64, Nat.mod_lt _ (by decide)⟩

/-- One sprite pixel: where lit, note a hit on a lit pixel and flip it; a clear bit changes nothing (R172, R174). -/
def drawPixel (k : Canvas) (lit : Bool) (r : Fin 32) (c : Fin 64) : Canvas :=
  if lit then { fb := k.fb.flip r c, hit := k.hit || k.fb.pixel r c } else k

/-- The sprite columns `w` of `ws`, in order, of a row with byte `b` (R174). -/
def drawCols (k : Canvas) (b : Byte) (r : Fin 32) (cx : Byte) (ws : List Nat) : Canvas :=
  match ws with
  | [] => k
  | w :: rest => drawCols (drawPixel k (spriteBit b w) r (screenCol cx w)) b r cx rest

/-- The eight columns of a sprite row, left to right. -/
def spriteCols : List Nat := [0, 1, 2, 3, 4, 5, 6, 7]

/-- The sprite rows from row `h` on (R174). -/
def drawRows (k : Canvas) (sprite : List Byte) (cx cy : Byte) (h : Nat) : Canvas :=
  match sprite with
  | [] => k
  | b :: rest => drawRows (drawCols k b (screenRow cy h) cx spriteCols) rest cx cy (h + 1)

/-- The whole sprite at column `cx` and row `cy` of the screen (R174). -/
def drawSprite (fb : Frame) (sprite : List Byte) (cx cy : Byte) : Canvas :=
  drawRows { fb := fb, hit := false } sprite cx cy 0

/-- `00E0`: every pixel off (R170). -/
def execCls (s : State) : Host.Outcome State Fault Refusal := .next (s.setFB Frame.blank).epilogue

/-- `DXYN`: read `n` sprite bytes at `I`, draw them at column `V[x]` and row `V[y]`, and write the collision to `VF`
(R174, R176). With `n` = 0 nothing is drawn and `VF <- 0`, after the same range check (R177). -/
def execDrw (x y : Reg) (n : BitVec 4) (s : State) : Host.Outcome State Fault Refusal :=
  s.complete <|
    match s.loadAtI n.toNat with
    | .ok sprite =>
      .ok ((s.setFB (drawSprite s.FB sprite (s.reg x) (s.reg y)).fb).setFlag
        (collisionFlag (drawSprite s.FB sprite (s.reg x) (s.reg y)).hit)).epilogue
    | .error c => .error c

end Sys2Proof.Machine
end

