-- ==== Sys2Proof/Machine/IndexMemory.lean ====
section
/-! DEFINITION. The index register and the memory transfers (42_index_memory.md R150 to R155). Every check comes
before every write, so a Fatal leaves `mem`, `V` and `I` unchanged. -/

namespace Sys2Proof.Machine

/-- `ANNN`: `I <- nnn` (R150). -/
def execLdI (nnn : BitVec 12) (s : State) : Host.Outcome State Fault Refusal :=
  .next (s.setI (addrOf nnn)).epilogue

/-- `FX1E`: `I <- (I + V[x]) mod 65536`; `VF` unaffected (R151). -/
def execAddI (x : Reg) (s : State) : Host.Outcome State Fault Refusal :=
  .next (s.setI (s.I + wordOf (s.reg x))).epilogue

/-- `FX29`: `I <- (V[x] & 0xF) * 5` (R152). Memory is not read. -/
def execLdF (x : Reg) (s : State) : Host.Outcome State Fault Refusal :=
  .next (s.setI (glyphAddr (s.reg x))).epilogue

/-- `FX33`: the decimal digits of `V[x]` to `mem[I]`, `mem[I+1]`, `mem[I+2]` (R153). `I` is not changed. -/
def execLdB (x : Reg) (s : State) : Host.Outcome State Fault Refusal :=
  s.complete <|
    match s.storeAtI (bcdDigits (s.reg x)) with
    | .ok t => .ok t.epilogue
    | .error c => .error c

/-- `FX55`: `V0` to `V[x]` to memory at `I`; then `I` advances under LOADSTORE_I = advance (R154). -/
def execStRegs (x : Reg) (s : State) : Host.Outcome State Fault Refusal :=
  s.complete <|
    match s.storeAtI (s.firstRegs (regCount x)) with
    | .ok t => .ok (t.advanceI (regCount x)).epilogue
    | .error c => .error c

/-- `FX65`: memory at `I` to `V0` to `V[x]`; then `I` advances under LOADSTORE_I = advance (R155). -/
def execLdRegs (x : Reg) (s : State) : Host.Outcome State Fault Refusal :=
  s.complete <|
    match s.loadAtI (regCount x) with
    | .ok bs => .ok ((s.setFirstRegs bs).advanceI (regCount x)).epilogue
    | .error c => .error c

end Sys2Proof.Machine
end

