-- ==== Sys2Proof/Machine/TimersKeys.lean ====
section
/-! DEFINITION. The timer, key-test and key-wait instructions (44_timers_keys.md R190 to R195). -/

namespace Sys2Proof.Machine

/-- `FX07`: `V[x] <- DT` (R190). -/
def execLdVxDt (x : Reg) (s : State) : Host.Outcome State Fault Refusal := .next (s.setReg x s.DT).epilogue

/-- `FX15`: `DT <- V[x]` (R191). -/
def execLdDtVx (x : Reg) (s : State) : Host.Outcome State Fault Refusal := .next (s.setDT (s.reg x)).epilogue

/-- `FX18`: `ST <- V[x]` (R192). -/
def execLdStVx (x : Reg) (s : State) : Host.Outcome State Fault Refusal := .next (s.setST (s.reg x)).epilogue

/-- `EX9E`: skip if the key named by the low nibble of `V[x]` is pressed (R193). -/
def execSkp (x : Reg) (s : State) : Host.Outcome State Fault Refusal :=
  .next (s.skipIf (s.keyDown (lowNibble (s.reg x))))

/-- `EXA1`: skip if the key named by the low nibble of `V[x]` is not pressed (R194). -/
def execSknp (x : Reg) (s : State) : Host.Outcome State Fault Refusal :=
  .next (s.skipIf (!s.keyDown (lowNibble (s.reg x))))

/-- `FX0A`: `awaiting <- x`, and the default epilogue; the wait holds the steps after this one (R195, D30). -/
def execLdVxK (x : Reg) (s : State) : Host.Outcome State Fault Refusal := .next (s.setAwaiting (some x)).epilogue

end Sys2Proof.Machine
end

