-- ==== Sys2Proof/Machine/Cycle.lean ====
section
/-! DEFINITION. One call of `step()` (40_control.md R90, R91): the checks in their order, the fetch, and the outcome
returned to the host (60_exceptions.md R224, R228, R229); and the placing of a word where the next step fetches. -/

namespace Sys2Proof.Machine

/-- The fetch's range check: `pc + 2 <= 4096` (R91). -/
def State.fetchInRange (s : State) : Bool := decide (s.pc.toNat + 2 ≤ memSize)

/-- The fetch: the bytes at `pc` and `pc + 1` as one big-endian word (R91, 20_memory.md R52). -/
def State.fetch (s : State) : Except Cause Word :=
  if s.fetchInRange then .ok (wordOfBytes (s.mem.read s.pc.toNat) (s.mem.read (s.pc.toNat + 1)))
  else .error .fetchOutOfRange

/-- An unrecognized word: `pc + 2` under UNKNOWN_PC = advance, no change under hold (60_exceptions.md R228). -/
def State.passUnknown (s : State) : State :=
  match s.cfg.unknownPc with
  | .advance => s.epilogue
  | .hold => s

/-- What the step returns after an instruction that left state `t` on a machine that had no fault record (R229). -/
def outcomeAfter (t : State) : StepOutcome :=
  match t.fault with
  | none => .executed
  | some (c, _) => .fatal c

/-- Execute an instruction and say what the step returns (R90). -/
def runInstr (i : Instr) (s : State) : Host.Outcome (State × StepOutcome) Fault Refusal :=
  match exec i s with
  | .next t => .next (t, outcomeAfter t)
  | .fault r => .fault r
  | .refused r => .refused r

/-- Dispatch a fetched word (R90). -/
def runWord (w : Word) (s : State) : Host.Outcome (State × StepOutcome) Fault Refusal :=
  match decodeWord w with
  | .instr i => runInstr i s
  | .unrecognized w' => .next (s.passUnknown, .unrecognized w')

/-- One call of `step()`: the state after it and the `StepOutcome` it returns (R90). The checks come in the order of
60_exceptions.md R224: fault record, `awaiting`, fetch range, dispatch, the instruction's own. -/
def cycle (s : State) : Host.Outcome (State × StepOutcome) Fault Refusal :=
  match s.fault with
  | some (c, _) => .next (s, .fatal c)
  | none =>
    match s.awaiting with
    | some _ => .next (s, .waiting)
    | none =>
      match s.fetch with
      | .error c => .next (s.raiseFatal c, .fatal c)
      | .ok w => runWord w s

/-- The step in the host's three outcomes: the state after `cycle`; on a machine whose fault record is set, where
`cycle` changes nothing and execution has ended for good, a fault that names the record (R226, R229; log entry 5). -/
def stepState (s : State) : Host.Outcome State Fault Refusal :=
  match s.fault with
  | some (c, p) => .fault (.fatal c p)
  | none =>
    match cycle s with
    | .next (t, _) => .next t
    | .fault r => .fault r
    | .refused r => .refused r

/-- `s` with whatever keeps the next step from fetching taken away: no fault record, no key wait, and `pc` at the
entry point 0x200 where it was past 4094 (R224 steps 1 to 3; log entry 8). -/
def State.readyToFetch (s : State) : State :=
  { s with fault := none, awaiting := none, pc := if s.fetchInRange then s.pc else 0x200#16 }

/-- `s` with the word `w` stored, high byte first, where the next step fetches. -/
def State.placeWord (s : State) (w : Word) : State :=
  { s.readyToFetch with
    mem := s.readyToFetch.mem.writeBytes s.readyToFetch.pc.toNat [highByte w, lowByte w] }

end Sys2Proof.Machine
end

