-- ==== Sys2Proof/Machine/Step.lean ====
section
/-! DEFINITION. The step of the machine (40_control.md R90), and a state with a given word where the step fetches. -/

namespace Sys2Proof.Machine

/-- One step (Machine/Cycle.lean). -/
def step (s : State) : Host.Outcome State Fault Refusal := stepState s

/-- `s` with the word of `nbits` bits valued `w` where `step` fetches its next instruction (log entry 8). -/
def State.withFetchWord (s : State) (nbits w : Nat) : State := s.placeWord (tableWord nbits w)

end Sys2Proof.Machine
end

