-- ==== Sys2Proof/Machine/Interface.lean ====
section
/-! DEFINITION. The operations the host invokes beside `step()` (00_scope.md R4, 70_reset_and_hazards.md R255):
`construct`, `tick_timers`, `key_event`, `framebuffer`, `sound_active`, and their interleavings. -/

namespace Sys2Proof.Machine

/-- The saturating decrement of a timer (44_timers_keys.md R203). -/
def tickDown (t : Byte) : Byte := if t = 0x00#8 then 0x00#8 else t - 0x01#8

/-- `tick_timers()`: one 60 Hz tick of both timers; nothing on a faulted machine (R202, R203). -/
def tickTimers (s : State) : State :=
  match s.fault with
  | some _ => s
  | none => (s.setDT (tickDown s.DT)).setST (tickDown s.ST)

/-- A press that ends a key wait on `r`: `V[r] <- k`, `awaiting <- none`; with no wait, nothing more (R206). -/
def State.endWait (s : State) (k : Key) : State :=
  match s.awaiting with
  | some r => (s.setReg r (BitVec.ofNat 8 k.val)).setAwaiting none
  | none => s

/-- `key_event(k, pressed)` for a key code: `KEY[k] <- pressed`, and a press ends a wait; nothing on a faulted machine
(R206, D16, D18). -/
def deliverKey (k : Key) (pressed : Bool) (s : State) : State :=
  match s.fault with
  | some _ => s
  | none => if pressed then (s.setKey k pressed).endWait k else s.setKey k pressed

/-- `key_event(code, pressed)`: a code outside 0 to 15 is refused (R207, D17; log entry 11). -/
def keyEvent (code : Nat) (pressed : Bool) (s : State) : Host.Outcome State Fault Refusal :=
  if h : code < 16 then .next (deliverKey ⟨code, h⟩ pressed s) else .refused (.keyCodeOutOfRange code)

/-- `sound_active()`: `ST > 0` (R205). -/
def soundActive (s : State) : Bool := decide (0 < s.ST.toNat)

/-- A pixel as the host sees it (43_display.md R171). -/
def pixelByte (on : Bool) : Byte := if on then 0xFF#8 else 0x00#8

/-- `framebuffer()`: 2048 bytes, row-major; byte `64*r + c` is pixel (r, c) (R171). -/
def framebuffer (s : State) : Vector Byte 2048 :=
  Vector.ofFn fun k : Fin 2048 =>
    pixelByte (Frame.pixel s.FB ⟨k.val / 64, by omega⟩ ⟨k.val % 64, by omega⟩)

/-- Why `construct` gives no state: the ROM's size (70_reset_and_hazards.md R253). The spec names no constructors
(N24; log entry 12). -/
inductive LoadError where
  /-- fewer than 2 or more than 3584 bytes -/
  | romSize
  deriving DecidableEq, Repr

/-- Memory after construction: zero, FONT at 0x000, the ROM at 0x200 (R250). -/
def constructMem (font : Vector Byte 80) (rom : List Byte) : Memory :=
  Memory.writeBytes (Memory.writeBytes [] 0x000 font.toList) 0x200 rom

/-- `construct(rom)` on a machine with parameters `cfg` and font `font` (R250, R253). -/
def construct (cfg : Config) (font : Vector Byte 80) (rom : List Byte) : Except LoadError State :=
  if rom.length < 2 ∨ 3584 < rom.length then .error .romSize
  else .ok { State.reset with mem := constructMem font rom, cfg := cfg }

/-- The default FONT as the 80 bytes `construct` takes (R252). -/
def defaultFontVec : Vector Byte 80 := Vector.ofFn fun k : Fin 80 => defaultFont.getD k.val 0x00#8

/-- The operations that may change the state of a machine (R4, R255). Reading `framebuffer()` or `sound_active()`
changes nothing. -/
inductive HostOp where
  | step
  | tick
  | keyEvent (code : Nat) (pressed : Bool)
  deriving DecidableEq, Repr

/-- One operation of the host. `step()` is `cycle` here: on a faulted machine it changes nothing and the host may go on
calling (60_exceptions.md R226). -/
def applyOp (op : HostOp) (s : State) : Host.Outcome State Fault Refusal :=
  match op with
  | .step =>
    match cycle s with
    | .next (t, _) => .next t
    | .fault r => .fault r
    | .refused r => .refused r
  | .tick => .next (tickTimers s)
  | .keyEvent code pressed => keyEvent code pressed s

/-- Any interleaving of the host's operations, in order (44_timers_keys.md R204; 70_reset_and_hazards.md R255). -/
def runOps (ops : List HostOp) (s : State) : Host.Outcome State Fault Refusal :=
  match ops with
  | [] => .next s
  | op :: rest =>
    match applyOp op s with
    | .next t => runOps rest t
    | .fault r => .fault r
    | .refused r => .refused r

end Sys2Proof.Machine
end

