-- ==== Sys2Proof/Safety.lean ====
section
/-! DEFINITION. The terms the claims are stated in: which part of the state an operation keeps, the invariant of a
machine, when an instruction faults, and which pixels a sprite lights. Each is written from the spec's rules, not
from the machine's definitions. -/

namespace Sys2Proof.Machine

/-- The parts of the state, one per field. -/
inductive Part where
  | mem | V | I | pc | stack | DT | ST | KEY | awaiting | FB | fault | cfg | draws
  deriving DecidableEq, Repr

/-- `t` has this part as `s` has it: every byte of memory through `Memory.read`, every register through `State.reg`,
every key and pixel through its accessor. -/
def Part.Kept (p : Part) (s t : State) : Prop :=
  match p with
  | .mem => ∀ a : Nat, t.mem.read a = s.mem.read a
  | .V => ∀ r : Reg, t.reg r = s.reg r
  | .I => t.I = s.I
  | .pc => t.pc = s.pc
  | .stack => t.stack = s.stack
  | .DT => t.DT = s.DT
  | .ST => t.ST = s.ST
  | .KEY => ∀ k : Key, t.keyDown k = s.keyDown k
  | .awaiting => t.awaiting = s.awaiting
  | .FB => ∀ (r : Fin 32) (c : Fin 64), Frame.pixel t.FB r c = Frame.pixel s.FB r c
  | .fault => t.fault = s.fault
  | .cfg => t.cfg = s.cfg
  | .draws => t.draws = s.draws

/-- Every part of the state but the listed ones is unchanged from `s` to `t`. -/
def KeptBut (parts : List Part) (s t : State) : Prop := ∀ p : Part, p ∉ parts → p.Kept s t

/-- Every register but those `p` picks is unchanged. -/
def RegsKeptBut (p : Reg → Prop) (s t : State) : Prop := ∀ r : Reg, ¬ p r → t.reg r = s.reg r

/-- Every byte of memory outside the `n` bytes at `a` is unchanged. -/
def BytesKeptBut (a n : Nat) (s t : State) : Prop :=
  ∀ b : Nat, ¬ (a ≤ b ∧ b < a + n) → t.mem.read b = s.mem.read b

/-- The word valued `n` is the instruction `i`: the decoder gives it. -/
def EncodedAs (n : Nat) (i : Instr) : Prop := decodeWord (BitVec.ofNat 16 n) = .instr i

/-- A machine that can run its next instruction's fetch: no fault record, no key wait (60_exceptions.md R224). -/
def State.Running (s : State) : Prop := s.fault = none ∧ s.awaiting = none

/-- The fault record names the `pc` the machine still has (10_state.md R33, 60_exceptions.md R226). -/
def State.faultAtPc (s : State) : Prop :=
  match s.fault with
  | none => True
  | some (_, p) => p = s.pc

/-- The invariant of a machine: memory in canonical form, the parameters as R9 wants them, the stack within
STACK_DEPTH (10_state.md R27) and its entries at most 4094 (R28), `pc` at most 0x10FE (R24), and the fault record at
the machine's `pc` (R33). -/
structure State.Inv (s : State) : Prop where
  memory      : s.mem.wf = true
  parameters  : s.cfg.wf = true
  stackBound  : s.stack.length ≤ s.cfg.stackDepth
  returnsLow  : ∀ v ∈ s.stack, v.toNat ≤ 4094
  pcBound     : s.pc.toNat ≤ 0x10FE
  faultRecord : s.faultAtPc

/-- The range condition of 20_memory.md R55 failing for an access of `n` bytes at `I`. -/
def rangeFails (n : Nat) (s : State) : Prop := 4096 < s.I.toNat + n

/-- The condition of 20_memory.md R59 for a write at `I`. -/
def reservedFails (s : State) : Prop := s.I.toNat < 0x200 ∧ s.cfg.lowWrite = .fault

/-- The table of 60_exceptions.md R220 for the causes an instruction can raise: `FaultsWith i s c` is its row's
condition for instruction `i` and cause `c`. -/
def FaultsWith (i : Instr) (s : State) (c : Cause) : Prop :=
  match c with
  | .fetchOutOfRange => False
  | .stackUnderflow => i = .ret ∧ s.stack = []
  | .stackOverflow => (∃ nnn, i = .call nnn) ∧ s.stack.length = s.cfg.stackDepth
  | .memoryOutOfRange =>
    (∃ x y n, i = .drw x y n ∧ rangeFails n.toNat s) ∨ (∃ x, i = .ldB x ∧ rangeFails 3 s)
      ∨ (∃ x, (i = .stRegs x ∨ i = .ldRegs x) ∧ rangeFails (x.val + 1) s)
  | .reservedWrite =>
    (∃ x, (i = .ldB x ∧ ¬ rangeFails 3 s) ∨ (i = .stRegs x ∧ ¬ rangeFails (x.val + 1) s)) ∧ reservedFails s

/-- The parts of the state an instruction may change, beside `pc` and the fault record: the "written by" sentences of
10_state.md R22, R26, R27, R29 to R32 and 20_memory.md R54. -/
def writtenParts (i : Instr) : List Part :=
  match i with
  | .sys _ | .jp _ | .jpV0 _ | .seImm _ _ | .sneImm _ _ | .seReg _ _ | .sneReg _ _ | .skp _ | .sknp _ => []
  | .cls => [.FB]
  | .ret | .call _ => [.stack]
  | .ldImm _ _ | .addImm _ _ | .ldReg _ _ | .orReg _ _ | .andReg _ _ | .xorReg _ _ | .addReg _ _ | .subReg _ _
  | .shr _ _ | .subnReg _ _ | .shl _ _ | .ldVxDt _ => [.V]
  | .rnd _ _ => [.V, .draws]
  | .drw _ _ _ => [.V, .FB]
  | .ldVxK _ => [.awaiting]
  | .ldDtVx _ => [.DT]
  | .ldStVx _ => [.ST]
  | .ldI _ | .addI _ | .ldF _ => [.I]
  | .ldB _ => [.mem]
  | .stRegs _ => [.mem, .I]
  | .ldRegs _ => [.V, .I]

/-- The addresses an instruction stores to, as first address and number of bytes from 20_memory.md R54: three bytes at
`I` for `FX33`, `x + 1` bytes at `I` for `FX55`, none for every other instruction. -/
def StoresTo (i : Instr) (s : State) (a : Nat) : Prop :=
  match i with
  | .ldB _ => s.I.toNat ≤ a ∧ a < s.I.toNat + 3
  | .stRegs x => s.I.toNat ≤ a ∧ a < s.I.toNat + (x.val + 1)
  | .sys _ | .cls | .ret | .jp _ | .call _ | .seImm _ _ | .sneImm _ _ | .seReg _ _ | .ldImm _ _ | .addImm _ _
  | .ldReg _ _ | .orReg _ _ | .andReg _ _ | .xorReg _ _ | .addReg _ _ | .subReg _ _ | .shr _ _ | .subnReg _ _
  | .shl _ _ | .sneReg _ _ | .ldI _ | .jpV0 _ | .rnd _ _ | .drw _ _ _ | .skp _ | .sknp _ | .ldVxDt _ | .ldVxK _
  | .ldDtVx _ | .ldStVx _ | .addI _ | .ldF _ | .ldRegs _ => False

/-- The registers an instruction may write: its destination and, for the rows of 10_state.md R22's table, `VF`. -/
def WritesReg (i : Instr) (s : State) (r : Reg) : Prop :=
  match i with
  | .ldImm x _ | .addImm x _ | .ldReg x _ | .rnd x _ | .ldVxDt x => r = x
  | .orReg x _ | .andReg x _ | .xorReg x _ => r = x ∨ (r = 0xF ∧ s.cfg.logicVfReset = true)
  | .addReg x _ | .subReg x _ | .shr x _ | .subnReg x _ | .shl x _ => r = x ∨ r = 0xF
  | .drw _ _ _ => r = 0xF
  | .ldRegs x => r ≤ x
  | .sys _ | .cls | .ret | .jp _ | .call _ | .seImm _ _ | .sneImm _ _ | .seReg _ _ | .sneReg _ _ | .ldI _ | .jpV0 _
  | .skp _ | .sknp _ | .ldVxK _ | .ldDtVx _ | .ldStVx _ | .addI _ | .ldF _ | .ldB _ | .stRegs _ => False

/-- Pixel (r, c) of the screen is under a lit pixel of the sprite of `n` rows at `I`, drawn at column `cx` and row
`cy`: some row `h` and column `w` of it is lit (43_display.md R172) and lands there (R173). -/
def Lit (s : State) (n : Nat) (cx cy : Byte) (r : Fin 32) (c : Fin 64) : Prop :=
  ∃ h w : Nat, h < n ∧ w < 8 ∧ (s.mem.read (s.I.toNat + h)).getLsbD (7 - w) = true
    ∧ r.val = (cy.toNat + h) % 32 ∧ c.val = (cx.toNat + w) % 64

/-- What `8XY1`, `8XY2` and `8XY3` do with their result `v` (41_alu.md R123): it goes to `V[x]`; then under
LOGIC_VF_RESET `VF` is 0, the destination too where `x` = 0xF; `pc` advances by 2 and nothing else changes. -/
def LogicEffect (x : Reg) (v : Byte) (s t : State) : Prop :=
  (∀ r : Reg, t.reg r = if r = 0xF ∧ s.cfg.logicVfReset = true then 0x00#8 else if r = x then v else s.reg r) ∧
  t.pc = s.pc + 2#16 ∧ KeptBut [.V, .pc] s t

/-- The state a Fatal of cause `c` leaves: `s` with the record (c, pc) and nothing else changed (60_exceptions.md
R220). -/
def Aborted (s : State) (c : Cause) : State := { s with fault := some (c, s.pc) }

/-- A press of a key (44_timers_keys.md R206): the one event that ends a key wait (R196). -/
def HostOp.isPress (op : HostOp) : Bool :=
  match op with
  | .keyEvent _ true => true
  | .keyEvent _ false => false
  | .step => false
  | .tick => false

/-- A key code the host may send (R207). -/
def HostOp.codeOk (op : HostOp) : Bool :=
  match op with
  | .keyEvent code _ => decide (code < 16)
  | .step => true
  | .tick => true

end Sys2Proof.Machine
end

