-- ==== Sys2Proof/Certificates/Slice0/Obligations.lean ====
section
/-! DEFINITION. The statements for the provers. Each docstring names the rule of spec/ it formalises; every statement
holds for every value of the parameters of 00_scope.md R9, which the state carries (log entry 1). -/

open Sys2Proof Sys2Proof.Machine

/-! ## The step cycle -/

/-- 40_control.md section 1: a machine with no fault record and no key wait, whose fetch is in range, runs the
instruction its two bytes decode to, and nothing around it; `cycle`, the call as the host sees it, returns Executed or
the Fatal the instruction raised (60_exceptions.md section 4). The step in three outcomes is log entry 5. -/
def Obligations.StepRunsDecodedInstruction : Prop :=
  ∀ (s : State) (i : Instr), s.Running → s.pc.toNat ≤ 4094 →
    decodeWord (s.mem.read s.pc.toNat ++ s.mem.read (s.pc.toNat + 1)) = .instr i →
    step s = exec i s ∧
    ∀ t : State, exec i s = .next t →
      (t.fault = none → cycle s = .next (t, .executed)) ∧
      (∀ (c : Cause) (p : Word), t.fault = some (c, p) → cycle s = .next (t, .fatal c))

/-- R91: the fetch is fatal for `pc > 4094` and changes nothing but the fault record; otherwise the word has the byte
at `pc` high and the byte at `pc + 1` low. -/
def Obligations.FetchReadsTwoBytesBigEndian : Prop :=
  ∀ s : State, s.Running →
    (4094 < s.pc.toNat → ∃ t : State, step s = .next t ∧ t.fault = some (.fetchOutOfRange, s.pc) ∧
      KeptBut [.fault] s t) ∧
    (s.pc.toNat ≤ 4094 → ∃ w : Word, s.fetch = .ok w ∧
      w.toNat = 256 * (s.mem.read s.pc.toNat).toNat + (s.mem.read (s.pc.toNat + 1)).toNat)

/-- R197: while `awaiting` is set a step changes nothing, whatever `pc` is, and returns Waiting. -/
def Obligations.WaitingStepChangesNothing : Prop :=
  ∀ (s : State) (r : Reg), s.fault = none → s.awaiting = some r →
    step s = .next s ∧ cycle s = .next (s, .waiting)

/-- 60_exceptions.md section 3 (R226) and 44_timers_keys.md (R202, R206): once a record is set no operation changes
anything and the step returns the recorded Fatal. That `step` answers this with the outcome fault is the model's
choice (log entry 5). -/
def Obligations.FaultedMachineChangesNothing : Prop :=
  ∀ (s : State) (c : Cause) (p : Word), s.fault = some (c, p) →
    step s = .fault (.fatal c p) ∧ cycle s = .next (s, .fatal c) ∧ tickTimers s = s ∧
    ∀ (k : Key) (pressed : Bool), keyEvent k.val pressed s = .next s

/-- R228: an unrecognized word is reported; `pc` advances by 2 under UNKNOWN_PC = advance and stays under hold, and no
other state changes. -/
def Obligations.UnrecognizedWordIsReported : Prop :=
  ∀ (s : State) (w : Word), s.Running → s.fetch = .ok w → decodeWord w = .unrecognized w →
    ∃ t : State, step s = .next t ∧ cycle s = .next (t, .unrecognized w) ∧
      (s.cfg.unknownPc = .advance → t.pc = s.pc + 2#16) ∧
      (s.cfg.unknownPc = .hold → t.pc = s.pc ∧ step t = .next t ∧ cycle t = .next (t, .unrecognized w)) ∧
      KeptBut [.pc] s t

/-- 60_exceptions.md section 4: every instruction answers a next state, and a step answers one exactly on a machine
with no fault record (the outcome fault there is log entry 5). -/
def Obligations.OnlyTheFaultRecordStopsTheMachine : Prop :=
  (∀ (i : Instr) (s : State), ∃ t : State, exec i s = .next t) ∧
  (∀ s : State, (∃ t : State, step s = .next t) ↔ s.fault = none)

/-- R220: each cause is raised exactly on its row's condition, a Fatal writes the record (cause, pc) and changes nothing
else, and the codes are 1 to 5. "Stack holds STACK_DEPTH entries" is equality of the lengths, as R27 writes it (log
entry 9 on longer stacks). -/
def Obligations.FaultsExactlyAsTabled : Prop :=
  (∀ (i : Instr) (s : State), s.fault = none →
    (∀ c : Cause, FaultsWith i s c → exec i s = .next (Aborted s c)) ∧
    ((∀ c : Cause, ¬ FaultsWith i s c) → ∃ t : State, exec i s = .next t ∧ t.fault = none)) ∧
  (∀ s : State, s.Running → 4094 < s.pc.toNat →
    step s = .next (Aborted s .fetchOutOfRange) ∧
    cycle s = .next (Aborted s .fetchOutOfRange, .fatal .fetchOutOfRange)) ∧
  (∀ (i : Instr) (s : State) (c : Cause), s.Running → s.fetch = .ok (encode i) → i.wellFormed = true →
    FaultsWith i s c → cycle s = .next (Aborted s c, .fatal c)) ∧
  Cause.code .fetchOutOfRange = 1 ∧ Cause.code .stackUnderflow = 2 ∧ Cause.code .stackOverflow = 3 ∧
  Cause.code .memoryOutOfRange = 4 ∧ Cause.code .reservedWrite = 5

/-! ## Encoding -/

/-- R71: the six views of a word, by the shifts and masks of its table. -/
def Obligations.WordFieldsAreShiftsAndMasks : Prop :=
  ∀ w : Word,
    (kindOf w).toNat = w.toNat >>> 12 ∧ (xOf w).val = (w.toNat >>> 8) &&& 0xF ∧
    (yOf w).val = (w.toNat >>> 4) &&& 0xF ∧ (nOf w).toNat = w.toNat &&& 0xF ∧
    (nnOf w).toNat = w.toNat &&& 0xFF ∧ (nnnOf w).toNat = w.toNat &&& 0xFFF

/-- The dispatch vectors V5 to V19 of 95_test_vectors.md (marked derived there), its words of R80's last sentence, and the
words of V1 and V4. -/
def Obligations.DispatchVectorsDecode : Prop :=
  decodeWord 0x00E0#16 = .instr .cls ∧ decodeWord 0x00EE#16 = .instr .ret ∧
  decodeWord 0x00E1#16 = .instr (.sys 0x0E1#12) ∧ decodeWord 0x0000#16 = .instr (.sys 0x000#12) ∧
  decodeWord 0x01E0#16 = .instr (.sys 0x1E0#12) ∧ decodeWord 0x10E0#16 = .instr (.jp 0x0E0#12) ∧
  decodeWord 0x5120#16 = .instr (.seReg 1 2) ∧ decodeWord 0x5121#16 = .unrecognized 0x5121#16 ∧
  decodeWord 0x912E#16 = .unrecognized 0x912E#16 ∧ decodeWord 0x8128#16 = .unrecognized 0x8128#16 ∧
  decodeWord 0x812F#16 = .unrecognized 0x812F#16 ∧ decodeWord 0x812E#16 = .instr (.shl 1 2) ∧
  decodeWord 0xE19F#16 = .unrecognized 0xE19F#16 ∧ decodeWord 0xF100#16 = .unrecognized 0xF100#16 ∧
  decodeWord 0xF165#16 = .instr (.ldRegs 1) ∧ decodeWord 0xF1A1#16 = .unrecognized 0xF1A1#16 ∧
  decodeWord 0xD125#16 = .instr (.drw 1 2 0x5#4) ∧ decodeWord 0x8AB6#16 = .instr (.shr 0xA 0xB)

/-- 30_encoding.md section 3 (R75 to R81): every word is an instruction or unrecognized, and the unrecognized words are
exactly the ones the tables list. -/
def Obligations.UnrecognizedWordsAreTheListedOnes : Prop :=
  ∀ w : Word,
    ((∃ i : Instr, decodeWord w = .instr i) ∨ decodeWord w = .unrecognized w) ∧
    (decodeWord w = .unrecognized w ↔
      ((w.toNat / 0x1000 = 0x5 ∨ w.toNat / 0x1000 = 0x9) ∧ w.toNat % 0x10 ≠ 0) ∨
      (w.toNat / 0x1000 = 0x8 ∧ (8 ≤ w.toNat % 0x10 ∧ w.toNat % 0x10 ≠ 0xE)) ∨
      (w.toNat / 0x1000 = 0xE ∧ w.toNat % 0x100 ≠ 0x9E ∧ w.toNat % 0x100 ≠ 0xA1) ∨
      (w.toNat / 0x1000 = 0xF ∧ w.toNat % 0x100 ∉ [0x07, 0x0A, 0x15, 0x18, 0x1E, 0x29, 0x33, 0x55, 0x65]))

/-- 30_encoding.md: decoding the word of a well-formed instruction gives it back with every operand, on the word and on
its bytes in address order with whatever follows them. -/
def Obligations.DecodeOfEncodeIsIdentity : Prop :=
  ∀ (i : Instr) (rest : List Byte), i.wellFormed = true →
    decodeWord (encode i) = .instr i ∧ decode (encodeBytes i ++ rest) = .ok (i, rest)

/-- 30_encoding.md: a recognized word is the encoding of the instruction it decodes to, which is well-formed: no bit is
dropped (R83: no instruction ignores a field bit but as its rule says). -/
def Obligations.EncodeOfDecodeIsIdentity : Prop :=
  ∀ (w : Word) (i : Instr), decodeWord w = .instr i → i.wellFormed = true ∧ encode i = w

/-! ## Construction and invariants -/

/-- R250, R253: what `construct` leaves in every field, for every parameter value, FONT and ROM of 2 to 3584 bytes; any
other ROM is a LoadError. -/
def Obligations.ConstructedStateIsAsSpecified : Prop :=
  ∀ (cfg : Config) (font : Vector Byte 80) (rom : List Byte),
    ((rom.length < 2 ∨ 3584 < rom.length) → construct cfg font rom = .error .romSize) ∧
    (2 ≤ rom.length → rom.length ≤ 3584 → ∃ s : State, construct cfg font rom = .ok s ∧
      (∀ (a : Nat) (h : a < 80), s.mem.read a = font[a]) ∧
      (∀ (k : Nat) (h : k < rom.length), s.mem.read (0x200 + k) = rom[k]) ∧
      (∀ a : Nat, 80 ≤ a → ¬ (0x200 ≤ a ∧ a < 0x200 + rom.length) → s.mem.read a = 0x00#8) ∧
      (∀ r : Reg, s.reg r = 0x00#8) ∧ s.I = 0x200#16 ∧ s.pc = 0x200#16 ∧ s.stack = [] ∧
      s.DT = 0x00#8 ∧ s.ST = 0x00#8 ∧ (∀ k : Key, s.keyDown k = false) ∧ s.awaiting = none ∧
      (∀ (r : Fin 32) (c : Fin 64), Frame.pixel s.FB r c = false) ∧ s.fault = none)

/-- 10_state.md sections 3, 5 and 9: the invariant holds of the state after reset and of every constructed machine whose
parameters are legal, and that machine has the parameters it was given (the model carries them, log entry 1; the reset
state is log entry 4). -/
def Obligations.ConstructedMachineMeetsInvariant : Prop :=
  State.reset.Inv ∧
  ∀ (cfg : Config) (font : Vector Byte 80) (rom : List Byte) (s : State),
    cfg.wf = true → construct cfg font rom = .ok s → s.Inv ∧ s.cfg = cfg

/-- 10_state.md R24, R27, R28, R33 (the spec marks R24's and R28's bounds as derived) and the canonical form of memory
(log entry 3): every step keeps the invariant, from every state that meets it. -/
def Obligations.StepKeepsInvariant : Prop :=
  ∀ s t : State, s.Inv → step s = .next t → t.Inv

/-- 44_timers_keys.md R204: every interleaving of steps, ticks and key events keeps the invariant. -/
def Obligations.EveryInterleavingKeepsInvariant : Prop :=
  ∀ (ops : List HostOp) (s t : State), s.Inv → runOps ops s = .next t → t.Inv

/-- 20_memory.md section 4 (R59, C1): under LOW_WRITE = fault no sequence of host operations ever changes a byte below
0x200, the font among them. -/
def Obligations.ReservedRegionIsNeverWritten : Prop :=
  ∀ (ops : List HostOp) (s t : State), s.cfg.lowWrite = .fault → runOps ops s = .next t →
    ∀ a : Nat, a < 0x200 → t.mem.read a = s.mem.read a

/-- 60_exceptions.md R226 (D18): once a fault record is set, no sequence of host operations changes anything. -/
def Obligations.FaultRecordIsSticky : Prop :=
  ∀ (ops : List HostOp) (s : State), s.fault ≠ none → (∀ op ∈ ops, op.codeOk = true) → runOps ops s = .next s

/-- 44_timers_keys.md R196, R197, 60_exceptions.md R236: without a key press a key wait never ends, and only the timers
and the keypad change. -/
def Obligations.OnlyAPressEndsTheKeyWait : Prop :=
  ∀ (ops : List HostOp) (s t : State) (r : Reg), s.fault = none → s.awaiting = some r →
    (∀ op ∈ ops, op.isPress = false) → runOps ops s = .next t →
    t.awaiting = some r ∧ KeptBut [.DT, .ST, .KEY] s t

/-! ## Frames over all instructions -/

/-- 10_state.md R22, R26, R27, R29 to R32 and 20_memory.md R54, "only ... write" sentences: an instruction changes no
part of the state but the ones the spec names for it, `pc`, and the fault record when it faults; `CXNN` also counts its
draw, in the model's own field (log entry 2). -/
def Obligations.InstructionsChangeOnlyTheirParts : Prop :=
  ∀ (i : Instr) (s t : State), exec i s = .next t → KeptBut (writtenParts i ++ [.pc, .fault]) s t

/-- 10_state.md R22: an instruction writes no register but its destination and, for the rows of R22's table, `VF`. -/
def Obligations.InstructionsWriteOnlyTheirRegisters : Prop :=
  ∀ (i : Instr) (s t : State), exec i s = .next t → RegsKeptBut (WritesReg i s) s t

/-! ## Control transfer -/

/-- R95: `0NNN` is every kind-0 word but 0x00E0 and 0x00EE, and changes nothing but `pc`, by 2. -/
def Obligations.SysIsANoOperation : Prop :=
  ∀ (nnn : BitVec 12) (s : State),
    (nnn ≠ 0x0E0#12 → nnn ≠ 0x0EE#12 → EncodedAs nnn.toNat (.sys nnn)) ∧
    ∃ t : State, exec (.sys nnn) s = .next t ∧ t.pc = s.pc + 2#16 ∧ KeptBut [.pc] s t

/-- 40_control.md `1NNN` and `BNNN`: the targets, unmasked, with no increment. The targets are general knowledge in the
spec (R96 "That the target is `nnn` is [from general knowledge, not in source]"; R99 likewise for `V0`). -/
def Obligations.JumpsSetThePc : Prop :=
  ∀ (nnn : BitVec 12) (s : State),
    EncodedAs (0x1000 + nnn.toNat) (.jp nnn) ∧ EncodedAs (0xB000 + nnn.toNat) (.jpV0 nnn) ∧
    (∃ t : State, exec (.jp nnn) s = .next t ∧ t.pc.toNat = nnn.toNat ∧ KeptBut [.pc] s t) ∧
    (∃ t : State, exec (.jpV0 nnn) s = .next t ∧ t.pc.toNat = nnn.toNat + (s.reg 0).toNat ∧ KeptBut [.pc] s t)

/-- R98: `2NNN` pushes its own address and jumps; with a full stack it is StackOverflow and changes nothing else. -/
def Obligations.CallPushesItsAddress : Prop :=
  ∀ (nnn : BitVec 12) (s : State),
    EncodedAs (0x2000 + nnn.toNat) (.call nnn) ∧
    (s.stack.length = s.cfg.stackDepth → exec (.call nnn) s = .next (Aborted s .stackOverflow)) ∧
    (s.stack.length ≠ s.cfg.stackDepth → ∃ t : State, exec (.call nnn) s = .next t ∧
      t.stack = s.stack ++ [s.pc] ∧ t.pc.toNat = nnn.toNat ∧ KeptBut [.pc, .stack] s t)

/-- 40_control.md `00EE`: the last entry is popped and execution resumes 2 after it (R97: "The +2 follows from that
[derived: from rules R92 and R98]"); an empty stack is StackUnderflow and changes nothing else. -/
def Obligations.ReturnPopsAndAdvances : Prop :=
  EncodedAs 0x00EE .ret ∧
  ∀ s : State,
    (s.stack = [] → exec .ret s = .next (Aborted s .stackUnderflow)) ∧
    (∀ (l : List Word) (v : Word), s.stack = l ++ [v] → ∃ t : State, exec .ret s = .next t ∧
      t.stack = l ∧ t.pc = v + 2#16 ∧ KeptBut [.pc, .stack] s t)

/-- 40_control.md `2NNN` and `00EE`: a return with the stack a call left resumes at the instruction after the call,
with the stack as before it (the + 2 is R97's "The +2 follows from that [derived: from rules R92 and R98]"). -/
def Obligations.ReturnResumesAfterTheCall : Prop :=
  ∀ (nnn : BitVec 12) (s t u : State), s.stack.length ≠ s.cfg.stackDepth → exec (.call nnn) s = .next t →
    u.stack = t.stack → ∃ v : State, exec .ret u = .next v ∧ v.pc = s.pc + 2#16 ∧ v.stack = s.stack

/-- R100, R101: the skips on an immediate. -/
def Obligations.SkipsOnImmediate : Prop :=
  ∀ (x : Reg) (nn : Byte) (s : State),
    EncodedAs (0x3000 + 0x100 * x.val + nn.toNat) (.seImm x nn) ∧
    EncodedAs (0x4000 + 0x100 * x.val + nn.toNat) (.sneImm x nn) ∧
    (∃ t : State, exec (.seImm x nn) s = .next t ∧
      t.pc = (if s.reg x = nn then s.pc + 4#16 else s.pc + 2#16) ∧ KeptBut [.pc] s t) ∧
    (∃ t : State, exec (.sneImm x nn) s = .next t ∧
      t.pc = (if s.reg x = nn then s.pc + 2#16 else s.pc + 4#16) ∧ KeptBut [.pc] s t)

/-- 40_control.md `5XY0` and `9XY0`: the skips on two registers (their conditions are general knowledge in the spec,
R102 and R103). -/
def Obligations.SkipsOnRegisters : Prop :=
  ∀ (x y : Reg) (s : State),
    EncodedAs (0x5000 + 0x100 * x.val + 0x10 * y.val) (.seReg x y) ∧
    EncodedAs (0x9000 + 0x100 * x.val + 0x10 * y.val) (.sneReg x y) ∧
    (∃ t : State, exec (.seReg x y) s = .next t ∧
      t.pc = (if s.reg x = s.reg y then s.pc + 4#16 else s.pc + 2#16) ∧ KeptBut [.pc] s t) ∧
    (∃ t : State, exec (.sneReg x y) s = .next t ∧
      t.pc = (if s.reg x = s.reg y then s.pc + 2#16 else s.pc + 4#16) ∧ KeptBut [.pc] s t)

/-! ## Register loads, arithmetic, logic, shifts, random -/

/-- R120, R121: load and add immediate; no flag, `VF` changes only as the destination. -/
def Obligations.ImmediateLoadAndAdd : Prop :=
  ∀ (x : Reg) (nn : Byte) (s : State),
    EncodedAs (0x6000 + 0x100 * x.val + nn.toNat) (.ldImm x nn) ∧
    EncodedAs (0x7000 + 0x100 * x.val + nn.toNat) (.addImm x nn) ∧
    (∃ t : State, exec (.ldImm x nn) s = .next t ∧ (∀ r : Reg, t.reg r = if r = x then nn else s.reg r) ∧
      t.pc = s.pc + 2#16 ∧ KeptBut [.V, .pc] s t) ∧
    (∃ t : State, exec (.addImm x nn) s = .next t ∧
      (t.reg x).toNat = ((s.reg x).toNat + nn.toNat) % 256 ∧ (∀ r : Reg, r ≠ x → t.reg r = s.reg r) ∧
      t.pc = s.pc + 2#16 ∧ KeptBut [.V, .pc] s t)

/-- 41_alu.md `8XY0`: the copy (general knowledge in the spec, R122). -/
def Obligations.CopyRegister : Prop :=
  ∀ (x y : Reg) (s : State),
    EncodedAs (0x8000 + 0x100 * x.val + 0x10 * y.val) (.ldReg x y) ∧
    ∃ t : State, exec (.ldReg x y) s = .next t ∧ (∀ r : Reg, t.reg r = if r = x then s.reg y else s.reg r) ∧
      t.pc = s.pc + 2#16 ∧ KeptBut [.V, .pc] s t

/-- R123, R124, R125: OR, AND and XOR; under LOGIC_VF_RESET `VF` ends as 0 even where it is the destination, and without
it `VF` changes only as the destination. -/
def Obligations.LogicResultsAndFlagReset : Prop :=
  ∀ (x y : Reg) (s : State),
    EncodedAs (0x8001 + 0x100 * x.val + 0x10 * y.val) (.orReg x y) ∧
    EncodedAs (0x8002 + 0x100 * x.val + 0x10 * y.val) (.andReg x y) ∧
    EncodedAs (0x8003 + 0x100 * x.val + 0x10 * y.val) (.xorReg x y) ∧
    (∃ t : State, exec (.orReg x y) s = .next t ∧ LogicEffect x (s.reg x ||| s.reg y) s t) ∧
    (∃ t : State, exec (.andReg x y) s = .next t ∧ LogicEffect x (s.reg x &&& s.reg y) s t) ∧
    (∃ t : State, exec (.xorReg x y) s = .next t ∧ LogicEffect x (s.reg x ^^^ s.reg y) s t)

/-- R126: the sum mod 256 to `V[x]`, then the carry of the unmodular sum to `VF`; with `x` = 0xF the carry stays. -/
def Obligations.AddSetsCarry : Prop :=
  ∀ (x y : Reg) (s : State),
    EncodedAs (0x8004 + 0x100 * x.val + 0x10 * y.val) (.addReg x y) ∧
    ∃ t : State, exec (.addReg x y) s = .next t ∧
      (x ≠ 0xF → (t.reg x).toNat = ((s.reg x).toNat + (s.reg y).toNat) % 256) ∧
      t.reg 0xF = (if 255 < (s.reg x).toNat + (s.reg y).toNat then 0x01#8 else 0x00#8) ∧
      (∀ r : Reg, r ≠ x → r ≠ 0xF → t.reg r = s.reg r) ∧ t.pc = s.pc + 2#16 ∧ KeptBut [.V, .pc] s t

/-- R127, R129: the two subtractions mod 256, then 1 for no borrow to `VF`; with `x` = 0xF the flag stays. -/
def Obligations.SubtractionsSetNoBorrow : Prop :=
  ∀ (x y : Reg) (s : State),
    EncodedAs (0x8005 + 0x100 * x.val + 0x10 * y.val) (.subReg x y) ∧
    EncodedAs (0x8007 + 0x100 * x.val + 0x10 * y.val) (.subnReg x y) ∧
    (∃ t : State, exec (.subReg x y) s = .next t ∧
      (x ≠ 0xF → ((t.reg x).toNat : Int) = (((s.reg x).toNat : Int) - ((s.reg y).toNat : Int)) % 256) ∧
      t.reg 0xF = (if (s.reg y).toNat ≤ (s.reg x).toNat then 0x01#8 else 0x00#8) ∧
      (∀ r : Reg, r ≠ x → r ≠ 0xF → t.reg r = s.reg r) ∧ t.pc = s.pc + 2#16 ∧ KeptBut [.V, .pc] s t) ∧
    (∃ t : State, exec (.subnReg x y) s = .next t ∧
      (x ≠ 0xF → ((t.reg x).toNat : Int) = (((s.reg y).toNat : Int) - ((s.reg x).toNat : Int)) % 256) ∧
      t.reg 0xF = (if (s.reg x).toNat ≤ (s.reg y).toNat then 0x01#8 else 0x00#8) ∧
      (∀ r : Reg, r ≠ x → r ≠ 0xF → t.reg r = s.reg r) ∧ t.pc = s.pc + 2#16 ∧ KeptBut [.V, .pc] s t)

/-- R128, R130: the shifts by one of the source SHIFT_SOURCE names, then the bit shifted out, of the source before the
shift, to `VF`; with `x` = 0xF the flag stays. -/
def Obligations.ShiftsMoveTheSourceByOne : Prop :=
  ∀ (x y src : Reg) (s : State),
    ((s.cfg.shiftSource = .vy ∧ src = y) ∨ (s.cfg.shiftSource = .vx ∧ src = x)) →
    EncodedAs (0x8006 + 0x100 * x.val + 0x10 * y.val) (.shr x y) ∧
    EncodedAs (0x800E + 0x100 * x.val + 0x10 * y.val) (.shl x y) ∧
    (∃ t : State, exec (.shr x y) s = .next t ∧
      (x ≠ 0xF → (t.reg x).toNat = (s.reg src).toNat / 2) ∧ (t.reg 0xF).toNat = (s.reg src).toNat % 2 ∧
      (∀ r : Reg, r ≠ x → r ≠ 0xF → t.reg r = s.reg r) ∧ t.pc = s.pc + 2#16 ∧ KeptBut [.V, .pc] s t) ∧
    (∃ t : State, exec (.shl x y) s = .next t ∧
      (x ≠ 0xF → (t.reg x).toNat = 2 * (s.reg src).toNat % 256) ∧ (t.reg 0xF).toNat = (s.reg src).toNat / 128 ∧
      (∀ r : Reg, r ≠ x → r ≠ 0xF → t.reg r = s.reg r) ∧ t.pc = s.pc + 2#16 ∧ KeptBut [.V, .pc] s t)

/-- 41_alu.md `CXNN` (R131): the draw under the mask. The draw is a free value and its counter the model's own (log
entry 2); the statement holds whatever byte is drawn. -/
def Obligations.RandomByteUnderMask : Prop :=
  ∀ (x : Reg) (nn : Byte) (s : State),
    EncodedAs (0xC000 + 0x100 * x.val + nn.toNat) (.rnd x nn) ∧
    ∃ t : State, exec (.rnd x nn) s = .next t ∧
      (∀ r : Reg, t.reg r = if r = x then Config.randomByte s.draws &&& nn else s.reg r) ∧
      t.draws = s.draws + 1 ∧ t.pc = s.pc + 2#16 ∧ KeptBut [.V, .pc, .draws] s t

/-! ## Index register and memory transfer -/

/-- 42_index_memory.md `ANNN`: the load (general knowledge in the spec, R150). -/
def Obligations.IndexLoad : Prop :=
  ∀ (nnn : BitVec 12) (s : State),
    EncodedAs (0xA000 + nnn.toNat) (.ldI nnn) ∧
    ∃ t : State, exec (.ldI nnn) s = .next t ∧ t.I.toNat = nnn.toNat ∧ t.pc = s.pc + 2#16 ∧ KeptBut [.I, .pc] s t

/-- R151, R152: the 16-bit sum with no 12-bit wrap, and the glyph address; neither touches `VF`, neither reads memory. -/
def Obligations.IndexAddAndGlyph : Prop :=
  ∀ (x : Reg) (s : State),
    EncodedAs (0xF01E + 0x100 * x.val) (.addI x) ∧ EncodedAs (0xF029 + 0x100 * x.val) (.ldF x) ∧
    (∃ t : State, exec (.addI x) s = .next t ∧ t.I.toNat = (s.I.toNat + (s.reg x).toNat) % 65536 ∧
      t.pc = s.pc + 2#16 ∧ KeptBut [.I, .pc] s t) ∧
    (∃ t : State, exec (.ldF x) s = .next t ∧ t.I.toNat = (s.reg x).toNat % 16 * 5 ∧
      t.pc = s.pc + 2#16 ∧ KeptBut [.I, .pc] s t)

/-- R153: the three decimal digits at `I`, after the range check and the reserved-region check; `I` unchanged. -/
def Obligations.StoreDecimalDigits : Prop :=
  ∀ (x : Reg) (s : State),
    EncodedAs (0xF033 + 0x100 * x.val) (.ldB x) ∧
    (0xFFD < s.I.toNat → exec (.ldB x) s = .next (Aborted s .memoryOutOfRange)) ∧
    (s.I.toNat < 0x200 → s.cfg.lowWrite = .fault → exec (.ldB x) s = .next (Aborted s .reservedWrite)) ∧
    (s.I.toNat ≤ 0xFFD → (0x200 ≤ s.I.toNat ∨ s.cfg.lowWrite = .allow) →
      ∃ t : State, exec (.ldB x) s = .next t ∧
        (t.mem.read s.I.toNat).toNat = (s.reg x).toNat / 100 ∧
        (t.mem.read (s.I.toNat + 1)).toNat = (s.reg x).toNat / 10 % 10 ∧
        (t.mem.read (s.I.toNat + 2)).toNat = (s.reg x).toNat % 10 ∧
        BytesKeptBut s.I.toNat 3 s t ∧ t.pc = s.pc + 2#16 ∧ KeptBut [.mem, .pc] s t)

/-- 42_index_memory.md `FX33`: the digits stored are decimal digits and spell the register. -/
def Obligations.StoredDigitsSpellTheRegister : Prop :=
  ∀ (x : Reg) (s t : State), s.fault = none → exec (.ldB x) s = .next t → t.fault = none →
    (t.mem.read s.I.toNat).toNat ≤ 9 ∧ (t.mem.read (s.I.toNat + 1)).toNat ≤ 9 ∧
    (t.mem.read (s.I.toNat + 2)).toNat ≤ 9 ∧
    100 * (t.mem.read s.I.toNat).toNat + 10 * (t.mem.read (s.I.toNat + 1)).toNat +
      (t.mem.read (s.I.toNat + 2)).toNat = (t.reg x).toNat

/-- R154: `V0` to `V[x]` to memory at `I`, after the range check and the reserved-region check; `I` by LOADSTORE_I. -/
def Obligations.StoreRegistersAtIndex : Prop :=
  ∀ (x : Reg) (s : State),
    EncodedAs (0xF055 + 0x100 * x.val) (.stRegs x) ∧
    (4096 < s.I.toNat + x.val + 1 → exec (.stRegs x) s = .next (Aborted s .memoryOutOfRange)) ∧
    (s.I.toNat < 0x200 → s.cfg.lowWrite = .fault → exec (.stRegs x) s = .next (Aborted s .reservedWrite)) ∧
    (s.I.toNat + x.val + 1 ≤ 4096 → (0x200 ≤ s.I.toNat ∨ s.cfg.lowWrite = .allow) →
      ∃ t : State, exec (.stRegs x) s = .next t ∧
        (∀ r : Reg, r ≤ x → t.mem.read (s.I.toNat + r.val) = s.reg r) ∧
        BytesKeptBut s.I.toNat (x.val + 1) s t ∧
        (s.cfg.loadStoreI = .advance → t.I.toNat = s.I.toNat + x.val + 1) ∧
        (s.cfg.loadStoreI = .keep → t.I = s.I) ∧ t.pc = s.pc + 2#16 ∧ KeptBut [.mem, .I, .pc] s t)

/-- R155: memory at `I` to `V0` to `V[x]`, after the range check; the reserved region may be read; `I` by LOADSTORE_I. -/
def Obligations.LoadRegistersAtIndex : Prop :=
  ∀ (x : Reg) (s : State),
    EncodedAs (0xF065 + 0x100 * x.val) (.ldRegs x) ∧
    (4096 < s.I.toNat + x.val + 1 → exec (.ldRegs x) s = .next (Aborted s .memoryOutOfRange)) ∧
    (s.I.toNat + x.val + 1 ≤ 4096 →
      ∃ t : State, exec (.ldRegs x) s = .next t ∧
        (∀ r : Reg, t.reg r = if r ≤ x then s.mem.read (s.I.toNat + r.val) else s.reg r) ∧
        (s.cfg.loadStoreI = .advance → t.I.toNat = s.I.toNat + x.val + 1) ∧
        (s.cfg.loadStoreI = .keep → t.I = s.I) ∧ t.pc = s.pc + 2#16 ∧ KeptBut [.V, .I, .pc] s t)

/-- 42_index_memory.md `FX55` and `FX65`: loading back at the same `I` what was stored gives every stored register its
value, whatever the registers held in between. -/
def Obligations.LoadRestoresStoredRegisters : Prop :=
  ∀ (x : Reg) (s t u : State), s.I.toNat + x.val + 1 ≤ 4096 →
    (0x200 ≤ s.I.toNat ∨ s.cfg.lowWrite = .allow) → exec (.stRegs x) s = .next t →
    (∀ a : Nat, u.mem.read a = t.mem.read a) → u.I = s.I →
    ∃ v : State, exec (.ldRegs x) u = .next v ∧ (∀ r : Reg, r ≤ x → v.reg r = s.reg r) ∧
      (∀ r : Reg, x < r → v.reg r = u.reg r)

/-- 20_memory.md section 5 (R62, marked derived in the spec): a store over the next instruction is what the next fetch
reads. -/
def Obligations.NextFetchSeesTheStore : Prop :=
  ∀ (x : Reg) (s : State), s.Running → s.I.toNat = s.pc.toNat + 2 → 1 ≤ x.val → s.I.toNat + x.val + 1 ≤ 4096 →
    (0x200 ≤ s.I.toNat ∨ s.cfg.lowWrite = .allow) →
    ∃ (t : State) (w : Word), exec (.stRegs x) s = .next t ∧ t.fetch = .ok w ∧
      w.toNat = 256 * (s.reg 0).toNat + (s.reg 1).toNat ∧
      ∀ i : Instr, decodeWord w = .instr i → step t = exec i t

/-! ## Display -/

/-- R170: every pixel off, the view all 0x00, nothing else but `pc` changed. -/
def Obligations.ClearTurnsEveryPixelOff : Prop :=
  EncodedAs 0x00E0 .cls ∧
  ∀ s : State, ∃ t : State, exec .cls s = .next t ∧
    (∀ (r : Fin 32) (c : Fin 64), Frame.pixel t.FB r c = false) ∧
    (∀ k : Fin 2048, (framebuffer t)[k.val] = 0x00#8) ∧ t.pc = s.pc + 2#16 ∧ KeptBut [.FB, .pc] s t

/-- R171: byte `64*r + c` of the view is 0xFF when pixel (r, c) is on and 0x00 when it is off. -/
def Obligations.FramebufferViewIsRowMajor : Prop :=
  ∀ (s : State) (r : Fin 32) (c : Fin 64),
    (framebuffer s)[64 * r.val + c.val]'(by have := r.isLt; have := c.isLt; omega) =
      if Frame.pixel s.FB r c = true then 0xFF#8 else 0x00#8

/-- R172, R173, R174, R176: exactly the pixels under a lit sprite pixel flip, at wrapped coordinates taken before `VF` is
written; `VF` is 1 exactly when one of them was on; a sprite past address 4095 is MemoryOutOfRange and changes
nothing else. -/
def Obligations.DrawFlipsTheLitPixels : Prop :=
  ∀ (x y : Reg) (n : BitVec 4) (s : State),
    EncodedAs (0xD000 + 0x100 * x.val + 0x10 * y.val + n.toNat) (.drw x y n) ∧
    (4096 < s.I.toNat + n.toNat → exec (.drw x y n) s = .next (Aborted s .memoryOutOfRange)) ∧
    (s.I.toNat + n.toNat ≤ 4096 → ∃ t : State, exec (.drw x y n) s = .next t ∧
      (∀ (r : Fin 32) (c : Fin 64), Lit s n.toNat (s.reg x) (s.reg y) r c →
        Frame.pixel t.FB r c = !(Frame.pixel s.FB r c)) ∧
      (∀ (r : Fin 32) (c : Fin 64), ¬ Lit s n.toNat (s.reg x) (s.reg y) r c →
        Frame.pixel t.FB r c = Frame.pixel s.FB r c) ∧
      ((∃ (r : Fin 32) (c : Fin 64), Lit s n.toNat (s.reg x) (s.reg y) r c ∧ Frame.pixel s.FB r c = true) →
        t.reg 0xF = 0x01#8) ∧
      ((∀ (r : Fin 32) (c : Fin 64), Lit s n.toNat (s.reg x) (s.reg y) r c → Frame.pixel s.FB r c = false) →
        t.reg 0xF = 0x00#8) ∧
      (∀ r : Reg, r ≠ 0xF → t.reg r = s.reg r) ∧ t.pc = s.pc + 2#16 ∧ KeptBut [.V, .FB, .pc] s t)

/-- R177: with `n` = 0 no pixel changes and `VF` is 0, but `I` > 4096 is MemoryOutOfRange. -/
def Obligations.DrawOfNoRows : Prop :=
  ∀ (x y : Reg) (s : State),
    (4096 < s.I.toNat → exec (.drw x y 0x0#4) s = .next (Aborted s .memoryOutOfRange)) ∧
    (s.I.toNat ≤ 4096 → ∃ t : State, exec (.drw x y 0x0#4) s = .next t ∧ t.reg 0xF = 0x00#8 ∧
      (∀ r : Reg, r ≠ 0xF → t.reg r = s.reg r) ∧ t.pc = s.pc + 2#16 ∧ KeptBut [.V, .pc] s t)

/-- 43_display.md section 3 and the source's property E7 (95_test_vectors.md): drawing the same sprite twice at the same
place restores the framebuffer, and the second draw reports a collision exactly when the first one turned some pixel
on. The coordinates are not in `VF`, which the first draw writes. -/
def Obligations.DrawingTwiceRestoresTheScreen : Prop :=
  ∀ (x y : Reg) (n : BitVec 4) (s t : State), x ≠ 0xF → y ≠ 0xF → s.I.toNat + n.toNat ≤ 4096 →
    exec (.drw x y n) s = .next t →
    ∃ u : State, exec (.drw x y n) t = .next u ∧
      (∀ (r : Fin 32) (c : Fin 64), Frame.pixel u.FB r c = Frame.pixel s.FB r c) ∧
      ((∃ (r : Fin 32) (c : Fin 64), Frame.pixel s.FB r c = false ∧ Frame.pixel t.FB r c = true) →
        u.reg 0xF = 0x01#8) ∧
      ((∀ (r : Fin 32) (c : Fin 64), Frame.pixel s.FB r c = false → Frame.pixel t.FB r c = false) →
        u.reg 0xF = 0x00#8)

/-! ## Timers, keys, key wait -/

/-- 44_timers_keys.md `FX07`, `FX15`, `FX18` (the directions are general knowledge in the spec, R192). -/
def Obligations.TimerCopies : Prop :=
  ∀ (x : Reg) (s : State),
    EncodedAs (0xF007 + 0x100 * x.val) (.ldVxDt x) ∧ EncodedAs (0xF015 + 0x100 * x.val) (.ldDtVx x) ∧
    EncodedAs (0xF018 + 0x100 * x.val) (.ldStVx x) ∧
    (∃ t : State, exec (.ldVxDt x) s = .next t ∧ (∀ r : Reg, t.reg r = if r = x then s.DT else s.reg r) ∧
      t.pc = s.pc + 2#16 ∧ KeptBut [.V, .pc] s t) ∧
    (∃ t : State, exec (.ldDtVx x) s = .next t ∧ t.DT = s.reg x ∧ t.pc = s.pc + 2#16 ∧ KeptBut [.DT, .pc] s t) ∧
    (∃ t : State, exec (.ldStVx x) s = .next t ∧ t.ST = s.reg x ∧ t.pc = s.pc + 2#16 ∧ KeptBut [.ST, .pc] s t)

/-- R193, R194: the skips on the key named by the low nibble of `V[x]`. -/
def Obligations.SkipsOnKey : Prop :=
  ∀ (x : Reg) (k : Key) (s : State), k.val = (s.reg x).toNat % 16 →
    EncodedAs (0xE09E + 0x100 * x.val) (.skp x) ∧ EncodedAs (0xE0A1 + 0x100 * x.val) (.sknp x) ∧
    (∃ t : State, exec (.skp x) s = .next t ∧
      t.pc = (if s.keyDown k = true then s.pc + 4#16 else s.pc + 2#16) ∧ KeptBut [.pc] s t) ∧
    (∃ t : State, exec (.sknp x) s = .next t ∧
      t.pc = (if s.keyDown k = true then s.pc + 2#16 else s.pc + 4#16) ∧ KeptBut [.pc] s t)

/-- R195: `FX0A` sets `awaiting` and advances `pc`; `V[x]` and the keypad are not touched. -/
def Obligations.KeyWaitBegins : Prop :=
  ∀ (x : Reg) (s : State),
    EncodedAs (0xF00A + 0x100 * x.val) (.ldVxK x) ∧
    ∃ t : State, exec (.ldVxK x) s = .next t ∧ t.awaiting = some x ∧ t.pc = s.pc + 2#16 ∧
      KeptBut [.awaiting, .pc] s t

/-- R203: a tick is the saturating decrement of both timers and changes nothing else; on a faulted machine, nothing. -/
def Obligations.TickDecrementsBothTimers : Prop :=
  ∀ s : State,
    (s.fault ≠ none → tickTimers s = s) ∧
    (s.fault = none → (tickTimers s).DT.toNat = s.DT.toNat - 1 ∧ (tickTimers s).ST.toNat = s.ST.toNat - 1 ∧
      KeptBut [.DT, .ST] s (tickTimers s))

/-- 44_timers_keys.md section 4 (R201, marked derived in the spec): after k ticks a timer that held v holds max(v - k, 0). -/
def Obligations.TimersCountDownToZero : Prop :=
  ∀ (k : Nat) (s : State), s.fault = none →
    ∃ t : State, runOps (List.replicate k .tick) s = .next t ∧
      t.DT.toNat = s.DT.toNat - k ∧ t.ST.toNat = s.ST.toNat - k ∧ KeptBut [.DT, .ST] s t

/-- R206: a key event sets `KEY[k]`; a press during a wait on `r` also writes k to `V[r]` and ends the wait; a release
never does; on a faulted machine nothing changes. -/
def Obligations.KeyEventUpdatesTheKeypad : Prop :=
  ∀ (k : Key) (pressed : Bool) (s : State),
    (s.fault ≠ none → keyEvent k.val pressed s = .next s) ∧
    (s.fault = none → ∃ t : State, keyEvent k.val pressed s = .next t ∧
      (∀ q : Key, t.keyDown q = if q = k then pressed else s.keyDown q) ∧
      (∀ r : Reg, pressed = true → s.awaiting = some r →
        t.awaiting = none ∧ (t.reg r).toNat = k.val ∧ ∀ q : Reg, q ≠ r → t.reg q = s.reg q) ∧
      ((pressed = false ∨ s.awaiting = none) → t.awaiting = s.awaiting ∧ ∀ q : Reg, t.reg q = s.reg q) ∧
      KeptBut [.KEY, .V, .awaiting] s t)

/-- 44_timers_keys.md section 5 (R207): a code outside 0 to 15 is refused, on a faulted machine too (log entry 11). -/
def Obligations.KeyCodeOutOfRangeIsRefused : Prop :=
  ∀ (code : Nat) (pressed : Bool) (s : State), 15 < code →
    keyEvent code pressed s = .refused (.keyCodeOutOfRange code)

/-- R205: sound is active exactly while the sound timer is above zero. -/
def Obligations.SoundIsActiveWhileTimerRuns : Prop :=
  ∀ s : State, soundActive s = true ↔ 0 < s.ST.toNat

/-! ## The memory frame -/

/-- 20_memory.md section 3 (R54, R58): an instruction changes no byte of memory but the ones it stores to, three bytes at
`I` for `FX33`, `x + 1` bytes at `I` for `FX55`, and none for any other. -/
def Obligations.InstructionsStoreOnlyTheirBytes : Prop :=
  ∀ (i : Instr) (s t : State), exec i s = .next t → ∀ a : Nat, ¬ StoresTo i s a → t.mem.read a = s.mem.read a
end

