-- ==== Sys2Proof/Laws/Decode.lean ====
section
/-! SUPPORT. The fields of a word and the words of the formats of 30_encoding.md R74, as numbers; a field of a
format's word; a word as the join of its fields. -/

namespace Sys2Proof

variable (k n : BitVec 4) (x y : Reg) (nn : Byte) (nnn : BitVec 12) (w : Word)

/-! The fields of a word as numbers. -/

theorem kindOf_toNat : (kindOf w).toNat = w.toNat / 0x1000 % 0x10 := by
  simp [kindOf, Nat.shiftRight_eq_div_pow]

theorem xOf_val : (xOf w).val = w.toNat / 0x100 % 0x10 := by
  show (w.extractLsb' 8 4).toNat = _
  simp [Nat.shiftRight_eq_div_pow]

theorem yOf_val : (yOf w).val = w.toNat / 0x10 % 0x10 := by
  show (w.extractLsb' 4 4).toNat = _
  simp [Nat.shiftRight_eq_div_pow]

theorem nOf_toNat : (nOf w).toNat = w.toNat % 0x10 := by simp [nOf]

theorem nnOf_toNat : (nnOf w).toNat = w.toNat % 0x100 := by simp [nnOf]

theorem nnnOf_toNat : (nnnOf w).toNat = w.toNat % 0x1000 := by simp [nnnOf]

/-! The words of the formats as numbers. -/

theorem wordNnn_toNat : (wordNnn k nnn).toNat = 0x1000 * k.toNat + nnn.toNat := by
  have h := nnn.isLt
  simp only [wordNnn, BitVec.toNat_append]
  rw [← Nat.shiftLeft_add_eq_or_of_lt h, Nat.shiftLeft_eq]; omega

theorem wordXnn_toNat : (wordXnn k x nn).toNat = 0x1000 * k.toNat + 0x100 * x.val + nn.toNat := by
  have h := nn.isLt
  have hx : (BitVec.ofFin x : BitVec 4).toNat < 2 ^ 4 := (BitVec.ofFin x : BitVec 4).isLt
  have hv : (BitVec.ofFin x : BitVec 4).toNat = x.val := rfl
  simp only [wordXnn, BitVec.toNat_append]
  rw [← Nat.shiftLeft_add_eq_or_of_lt h, ← Nat.shiftLeft_add_eq_or_of_lt hx, hv]
  simp only [Nat.shiftLeft_eq]; omega

theorem wordXyn_toNat :
    (wordXyn k x y n).toNat = 0x1000 * k.toNat + 0x100 * x.val + 0x10 * y.val + n.toNat := by
  have h := n.isLt
  have hx : (BitVec.ofFin x : BitVec 4).toNat < 2 ^ 4 := (BitVec.ofFin x : BitVec 4).isLt
  have hy : (BitVec.ofFin y : BitVec 4).toNat < 2 ^ 4 := (BitVec.ofFin y : BitVec 4).isLt
  have hv : (BitVec.ofFin x : BitVec 4).toNat = x.val := rfl
  have hu : (BitVec.ofFin y : BitVec 4).toNat = y.val := rfl
  simp only [wordXyn, BitVec.toNat_append]
  rw [← Nat.shiftLeft_add_eq_or_of_lt h, ← Nat.shiftLeft_add_eq_or_of_lt hy, ← Nat.shiftLeft_add_eq_or_of_lt hx,
    hv, hu]
  simp only [Nat.shiftLeft_eq]; omega

/-! The fields of a format's word. -/

@[simp] theorem kindOf_wordNnn : kindOf (wordNnn k nnn) = k := by
  apply BitVec.eq_of_toNat_eq; rw [kindOf_toNat, wordNnn_toNat]
  have := nnn.isLt; have := k.isLt; omega

@[simp] theorem nnnOf_wordNnn : nnnOf (wordNnn k nnn) = nnn := by
  apply BitVec.eq_of_toNat_eq; rw [nnnOf_toNat, wordNnn_toNat]
  have := nnn.isLt; omega

@[simp] theorem kindOf_wordXnn : kindOf (wordXnn k x nn) = k := by
  apply BitVec.eq_of_toNat_eq; rw [kindOf_toNat, wordXnn_toNat]
  have := nn.isLt; have := k.isLt; have := x.isLt; omega

@[simp] theorem xOf_wordXnn : xOf (wordXnn k x nn) = x := by
  apply Fin.ext; rw [xOf_val, wordXnn_toNat]
  have := nn.isLt; have := x.isLt; omega

@[simp] theorem nnOf_wordXnn : nnOf (wordXnn k x nn) = nn := by
  apply BitVec.eq_of_toNat_eq; rw [nnOf_toNat, wordXnn_toNat]
  have := nn.isLt; omega

@[simp] theorem kindOf_wordXyn : kindOf (wordXyn k x y n) = k := by
  apply BitVec.eq_of_toNat_eq; rw [kindOf_toNat, wordXyn_toNat]
  have := n.isLt; have := k.isLt; have := x.isLt; have := y.isLt; omega

@[simp] theorem xOf_wordXyn : xOf (wordXyn k x y n) = x := by
  apply Fin.ext; rw [xOf_val, wordXyn_toNat]
  have := n.isLt; have := x.isLt; have := y.isLt; omega

@[simp] theorem yOf_wordXyn : yOf (wordXyn k x y n) = y := by
  apply Fin.ext; rw [yOf_val, wordXyn_toNat]
  have := n.isLt; have := y.isLt; omega

@[simp] theorem nOf_wordXyn : nOf (wordXyn k x y n) = n := by
  apply BitVec.eq_of_toNat_eq; rw [nOf_toNat, wordXyn_toNat]
  have := n.isLt; omega

/-! A word is the join of its fields. -/

theorem wordNnn_fields : wordNnn (kindOf w) (nnnOf w) = w := by
  apply BitVec.eq_of_toNat_eq; rw [wordNnn_toNat, kindOf_toNat, nnnOf_toNat]
  have := w.isLt; omega

theorem wordXnn_fields : wordXnn (kindOf w) (xOf w) (nnOf w) = w := by
  apply BitVec.eq_of_toNat_eq; rw [wordXnn_toNat, kindOf_toNat, xOf_val, nnOf_toNat]
  have := w.isLt; omega

theorem wordXyn_fields : wordXyn (kindOf w) (xOf w) (yOf w) (nOf w) = w := by
  apply BitVec.eq_of_toNat_eq; rw [wordXyn_toNat, kindOf_toNat, xOf_val, yOf_val, nOf_toNat]
  have := w.isLt; omega

/-- A word given by its value is the format's word of the same value. -/
theorem ofNat_eq_of_toNat {m : Nat} {v : Word} (h : v.toNat = m) : BitVec.ofNat 16 m = v := by
  rw [← h, BitVec.ofNat_toNat, BitVec.setWidth_eq]

end Sys2Proof
end

