-- ==== Sys2Proof/Laws/Memory.lean ====
section
/-! SUPPORT. The laws of memory: a read after a write, and the canonical form kept by every memory operation. -/

namespace Sys2Proof.Machine

variable (m : Memory)

/-! Reading after a write. -/

theorem Memory.read_erase (a c : Nat) :
    Memory.read (Memory.erase m a) c = if c = a then background a else Memory.read m c := by
  induction m with
  | nil => unfold Memory.erase Memory.read; split <;> simp_all
  | cons cell m' ih =>
    obtain ⟨d, b⟩ := cell
    unfold Memory.erase
    by_cases hd : d = a
    · subst hd
      rw [if_pos rfl, ih]
      by_cases hc : c = d
      · simp [hc]
      · simp [hc, Memory.read, Ne.symm hc]
    · rw [if_neg hd]
      by_cases hc : d = c
      · subst hc; simp [Memory.read, hd]
      · simp [Memory.read, hc, ih]

theorem Memory.read_insert_erase (a c : Nat) (b : Byte) :
    Memory.read (Memory.insert (Memory.erase m a) a b) c = if c = a then b else Memory.read m c := by
  induction m with
  | nil =>
    by_cases hc : c = a
    · simp [Memory.erase, Memory.insert, Memory.read, hc]
    · simp [Memory.erase, Memory.insert, Memory.read, hc, Ne.symm hc]
  | cons cell m' ih =>
    obtain ⟨d, e⟩ := cell
    unfold Memory.erase
    by_cases hd : d = a
    · subst hd
      rw [if_pos rfl, ih]
      by_cases hc : c = d
      · simp [hc]
      · simp [hc, Memory.read, Ne.symm hc]
    · rw [if_neg hd]
      unfold Memory.insert
      by_cases hlt : a < d
      · rw [if_pos hlt]
        by_cases hc : c = a
        · subst hc; simp [Memory.read]
        · have := Memory.read_erase m' a c
          by_cases hdc : d = c
          · simp [Memory.read, hc, Ne.symm hc, hdc]
          · simp [Memory.read, hc, Ne.symm hc, hdc, this]
      · rw [if_neg hlt]
        by_cases hdc : d = c
        · subst hdc; simp [Memory.read, hd]
        · simp [Memory.read, hdc, ih]

/-- A byte reads back what was put there, and every other address is unchanged (20_memory.md R58, R60). -/
theorem Memory.read_put (a c : Nat) (b : Byte) :
    Memory.read (Memory.put m a b) c = if c = a then b else Memory.read m c := by
  unfold Memory.put
  by_cases h : b = background a
  · rw [if_pos h, Memory.read_erase, h]
  · rw [if_neg h, Memory.read_insert_erase]

theorem Memory.read_write (a c : Nat) (b : Byte) (h : a < memSize) :
    Memory.read (Memory.write m a b) c = if c = a then b else Memory.read m c := by
  rw [Memory.write, if_pos h, Memory.read_put]

@[simp] theorem Memory.readBytes_length (a n : Nat) : (Memory.readBytes m a n).length = n := by
  induction n generalizing a with
  | zero => rfl
  | succ k ih => simp [Memory.readBytes, ih]

theorem Memory.readBytes_getD (a n k : Nat) (d : Byte) (h : k < n) :
    (Memory.readBytes m a n).getD k d = Memory.read m (a + k) := by
  induction n generalizing a k with
  | zero => omega
  | succ n ih =>
    cases k with
    | zero => simp [Memory.readBytes]
    | succ k =>
      have := ih (a + 1) k (by omega)
      simp only [Memory.readBytes, List.getD_cons_succ, this]
      congr 1; omega

/-- What memory reads as after `MemWrite(a, n, bs)` inside the address space (00_scope.md R11). -/
theorem Memory.read_writeBytes (a c : Nat) (bs : List Byte) (h : a + bs.length ≤ memSize) :
    Memory.read (Memory.writeBytes m a bs) c =
      if a ≤ c ∧ c < a + bs.length then bs.getD (c - a) 0x00#8 else Memory.read m c := by
  induction bs generalizing m a with
  | nil =>
    have : ¬ (a ≤ c ∧ c < a + ([] : List Byte).length) := by simp
    rw [if_neg this]; rfl
  | cons b rest ih =>
    simp only [List.length_cons] at h ⊢
    simp only [Memory.writeBytes]
    rw [ih _ _ (by omega), Memory.read_write _ _ _ _ (by omega)]
    by_cases h1 : c = a
    · subst h1
      have h2 : ¬ (c + 1 ≤ c ∧ c < c + 1 + rest.length) := by omega
      have h3 : c ≤ c ∧ c < c + (rest.length + 1) := by omega
      rw [if_neg h2, if_pos h3, if_pos rfl, Nat.sub_self, List.getD_cons_zero]
    · by_cases h2 : a + 1 ≤ c ∧ c < a + 1 + rest.length
      · have h3 : a ≤ c ∧ c < a + (rest.length + 1) := by omega
        rw [if_pos h2, if_pos h3]
        obtain ⟨k, rfl⟩ : ∃ k, c = a + 1 + k := ⟨c - (a + 1), by omega⟩
        have e1 : a + 1 + k - (a + 1) = k := by omega
        have e2 : a + 1 + k - a = k + 1 := by omega
        rw [e1, e2, List.getD_cons_succ]
      · have h3 : ¬ (a ≤ c ∧ c < a + (rest.length + 1)) := by omega
        rw [if_neg h2, if_neg h3, if_neg h1]

/-! The canonical form. -/

theorem Memory.wfFrom_mono {low low' : Nat} (h : low ≤ low') (hm : Memory.wfFrom low' m = true) :
    Memory.wfFrom low m = true := by
  cases m with
  | nil => rfl
  | cons cell m' =>
    obtain ⟨c, b⟩ := cell
    simp only [Memory.wfFrom, Bool.and_eq_true, decide_eq_true_eq] at hm ⊢
    exact ⟨⟨⟨by omega, hm.1.1.2⟩, hm.1.2⟩, hm.2⟩

theorem Memory.wfFrom_erase (low a : Nat) (hm : Memory.wfFrom low m = true) :
    Memory.wfFrom low (Memory.erase m a) = true := by
  induction m generalizing low with
  | nil => rfl
  | cons cell m' ih =>
    obtain ⟨c, b⟩ := cell
    simp only [Memory.wfFrom, Bool.and_eq_true, decide_eq_true_eq] at hm
    unfold Memory.erase
    by_cases hc : c = a
    · rw [if_pos hc]
      exact Memory.wfFrom_mono _ (by omega) (ih _ hm.2)
    · rw [if_neg hc]
      simp only [Memory.wfFrom, Bool.and_eq_true, decide_eq_true_eq]
      exact ⟨hm.1, ih _ hm.2⟩

theorem Memory.wfFrom_insert (low a : Nat) (b : Byte) (hm : Memory.wfFrom low m = true) (hl : low ≤ a)
    (ha : a < memSize) (hb : b ≠ background a) :
    Memory.wfFrom low (Memory.insert (Memory.erase m a) a b) = true := by
  induction m generalizing low with
  | nil => simp [Memory.erase, Memory.insert, Memory.wfFrom, hl, ha, hb]
  | cons cell m' ih =>
    obtain ⟨c, d⟩ := cell
    simp only [Memory.wfFrom, Bool.and_eq_true, decide_eq_true_eq] at hm
    unfold Memory.erase
    by_cases hc : c = a
    · rw [if_pos hc]
      exact ih _ (Memory.wfFrom_mono _ (by omega) hm.2) hl
    · rw [if_neg hc]
      unfold Memory.insert
      by_cases hlt : a < c
      · rw [if_pos hlt]
        have := Memory.wfFrom_erase m' (c + 1) a hm.2
        simp only [Memory.wfFrom, Bool.and_eq_true, decide_eq_true_eq]
        exact ⟨⟨⟨hl, ha⟩, by simpa using hb⟩, ⟨⟨by omega, hm.1.1.2⟩, hm.1.2⟩, this⟩
      · rw [if_neg hlt]
        simp only [Memory.wfFrom, Bool.and_eq_true, decide_eq_true_eq]
        exact ⟨hm.1, ih _ hm.2 (by omega)⟩

/-- A write keeps the canonical form. -/
theorem Memory.wf_write (a : Nat) (b : Byte) (hm : Memory.wf m = true) : Memory.wf (Memory.write m a b) = true := by
  unfold Memory.write
  split
  · rename_i ha
    unfold Memory.put
    split
    · exact Memory.wfFrom_erase m 0 a hm
    · rename_i hb
      exact Memory.wfFrom_insert m 0 a b hm (Nat.zero_le a) ha hb
  · exact hm

/-- Writing any number of bytes keeps the canonical form. -/
theorem Memory.wf_writeBytes (a : Nat) (bs : List Byte) (hm : Memory.wf m = true) :
    Memory.wf (Memory.writeBytes m a bs) = true := by
  induction bs generalizing m a with
  | nil => exact hm
  | cons b rest ih => exact ih _ _ (Memory.wf_write m a b hm)

/-- The memory right after reset is in canonical form. -/
theorem Memory.wf_reset : Memory.wf State.reset.mem = true := rfl

end Sys2Proof.Machine
end

