-- ==== Sys2Proof/Laws/Display.lean ====
section
/-! SUPPORT. What a pixel reads as after a flip, after clearing, and after drawing a row or a whole sprite, and when a
draw reports a hit (43_display.md R170, R172 to R176). -/

namespace Sys2Proof.Machine

/-- Flipping a pixel changes that pixel alone. -/
theorem Frame.pixel_flip (fb : Frame) (r q : Fin 32) (c d : Fin 64) :
    Frame.pixel (Frame.flip fb r c) q d = if q = r ∧ d = c then !(Frame.pixel fb q d) else Frame.pixel fb q d := by
  have hd := d.isLt
  simp only [Frame.pixel, Frame.flip, Vector.getElem_set]
  by_cases hr : q = r
  · subst hr
    by_cases hc : d = c
    · subst hc; simp [hd]
    · have hv : d.val ≠ c.val := Fin.val_ne_of_ne hc
      rcases Nat.lt_or_ge d.val c.val with h | h
      · simp [hc, h]
      · have h2 : d.val - c.val ≠ 0 := by omega
        simp [hc, Nat.not_lt.2 h, hd, h2]
  · simp [hr, Fin.val_ne_of_ne (Ne.symm hr)]

@[simp] theorem Frame.pixel_blank (r : Fin 32) (c : Fin 64) : Frame.pixel Frame.blank r c = false := by
  simp [Frame.pixel, Frame.blank]

/-- Everything a sprite pixel can do (R174). -/
theorem drawPixel_eq (k : Canvas) (lit : Bool) (r : Fin 32) (c : Fin 64) :
    drawPixel k lit r c = if lit then { fb := k.fb.flip r c, hit := k.hit || k.fb.pixel r c } else k := rfl

@[simp] theorem mem_spriteCols (w : Nat) : w ∈ spriteCols ↔ w < 8 := by
  simp only [spriteCols, List.mem_cons, List.not_mem_nil, or_false]; omega

/-- Two columns of a sprite row never land on one screen column (R175). -/
theorem screenCol_ne (cx : Byte) (w v : Nat) (hw : w < 8) (hv : v < 8) (h : w ≠ v) :
    screenCol cx w ≠ screenCol cx v := by
  intro he
  have := Fin.val_eq_of_eq he
  simp only [screenCol] at this
  omega

/-- What the sprite columns `ws` of a row with byte `b` do: they flip the pixels under their lit bits, and report a hit
when one of those was on. -/
theorem drawCols_spec (b : Byte) (q : Fin 32) (cx : Byte) (ws : List Nat) (k : Canvas) (hn : ws.Nodup)
    (hl : ∀ w ∈ ws, w < 8) :
    (∀ r c, Frame.pixel (drawCols k b q cx ws).fb r c =
      if r = q ∧ ∃ w ∈ ws, spriteBit b w = true ∧ screenCol cx w = c then !(Frame.pixel k.fb r c)
      else Frame.pixel k.fb r c) ∧
    ((drawCols k b q cx ws).hit = true ↔
      k.hit = true ∨ ∃ w ∈ ws, spriteBit b w = true ∧ Frame.pixel k.fb q (screenCol cx w) = true) := by
  induction ws generalizing k with
  | nil => simp [drawCols]
  | cons w rest ih =>
    obtain ⟨hw, hrest⟩ := List.nodup_cons.1 hn
    obtain ⟨i1, i2⟩ := ih (drawPixel k (spriteBit b w) q (screenCol cx w)) hrest fun v hv => hl v (by simp [hv])
    have inj : ∀ v ∈ rest, screenCol cx v ≠ screenCol cx w := fun v hv =>
      screenCol_ne cx v w (hl v (by simp [hv])) (hl w (by simp)) fun h => hw (h ▸ hv)
    simp only [drawCols]
    by_cases hb : spriteBit b w = true
    · simp only [drawPixel, hb, if_true, Bool.or_eq_true, Frame.pixel_flip] at i1 i2
      constructor
      · intro r c
        simp only [drawPixel, hb, if_true]
        rw [i1]
        by_cases hc : r = q ∧ c = screenCol cx w
        · obtain ⟨rfl, rfl⟩ := hc
          rw [if_neg (by rintro ⟨-, v, hv, -, he⟩; exact inj v hv he), if_pos ⟨rfl, rfl⟩,
            if_pos ⟨rfl, w, by simp, hb, rfl⟩]
        · rw [if_neg hc]
          by_cases hr : r = q
          · have hc' : ¬ screenCol cx w = c := fun h => hc ⟨hr, h.symm⟩
            simp [hr, hc']
          · simp [hr]
      · simp only [drawPixel, hb, if_true]
        rw [i2]
        constructor
        · rintro ((h | h) | ⟨v, hv, h1, h2⟩)
          · exact .inl h
          · exact .inr ⟨w, by simp, hb, h⟩
          · rw [if_neg fun h => inj v hv h.2] at h2
            exact .inr ⟨v, by simp [hv], h1, h2⟩
        · rintro (h | ⟨v, hv, h1, h2⟩)
          · exact .inl (.inl h)
          · rcases List.mem_cons.1 hv with rfl | hv
            · exact .inl (.inr h2)
            · exact .inr ⟨v, hv, h1, by rw [if_neg fun h => inj v hv h.2]; exact h2⟩
    · simp only [drawPixel, hb, Bool.false_eq_true, if_false] at i1 i2 ⊢
      exact ⟨fun r c => by rw [i1]; simp [hb], by rw [i2]; simp [hb]⟩

/-- Pixel (r, c) is under a lit pixel of the sprite rows `sp`, the first of them sprite row `h0`. -/
def RowsLit (sp : List Byte) (cx cy : Byte) (h0 : Nat) (r : Fin 32) (c : Fin 64) : Prop :=
  ∃ h w : Nat, h < sp.length ∧ w < 8 ∧ spriteBit (sp.getD h 0x00#8) w = true ∧ screenRow cy (h0 + h) = r ∧
    screenCol cx w = c

/-- The lit pixels of a sprite are those of its first row and those of the rest. -/
theorem rowsLit_cons (b : Byte) (rest : List Byte) (cx cy : Byte) (h0 : Nat) (r : Fin 32) (c : Fin 64) :
    RowsLit (b :: rest) cx cy h0 r c ↔
      (r = screenRow cy h0 ∧ ∃ w ∈ spriteCols, spriteBit b w = true ∧ screenCol cx w = c) ∨
        RowsLit rest cx cy (h0 + 1) r c := by
  constructor
  · rintro ⟨h, w, h1, h2, h3, h4, h5⟩
    cases h with
    | zero => exact .inl ⟨h4.symm, w, by simpa using h2, by simpa using h3, h5⟩
    | succ h =>
      exact .inr ⟨h, w, by simpa using h1, h2, by simpa using h3, by rw [← h4]; congr 1; omega, h5⟩
  · rintro (⟨rfl, w, h1, h2, h3⟩ | ⟨h, w, h1, h2, h3, h4, h5⟩)
    · exact ⟨0, w, by simp, by simpa using h1, by simpa using h2, rfl, h3⟩
    · exact ⟨h + 1, w, by simpa using h1, h2, by simpa using h3, by rw [← h4]; congr 1; omega, h5⟩

/-- A sprite of at most 32 rows never comes back to its first screen row (R175). -/
theorem rowsLit_ne_row (sp : List Byte) (cx cy : Byte) (h0 : Nat) (r : Fin 32) (c : Fin 64) (hl : sp.length < 32)
    (h : RowsLit sp cx cy (h0 + 1) r c) : r ≠ screenRow cy h0 := by
  obtain ⟨k, w, h1, -, -, rfl, -⟩ := h
  intro he
  have := Fin.val_eq_of_eq he
  simp only [screenRow] at this
  omega

/-- What drawing sprite rows does: they flip the pixels under their lit bits and no other, and report a hit when one of
those was on. -/
theorem drawRows_spec (cx cy : Byte) (sp : List Byte) (k : Canvas) (h0 : Nat) (hl : sp.length ≤ 32) :
    (∀ r c, (RowsLit sp cx cy h0 r c → Frame.pixel (drawRows k sp cx cy h0).fb r c = !(Frame.pixel k.fb r c)) ∧
      (¬ RowsLit sp cx cy h0 r c → Frame.pixel (drawRows k sp cx cy h0).fb r c = Frame.pixel k.fb r c)) ∧
    ((drawRows k sp cx cy h0).hit = true ↔
      k.hit = true ∨ ∃ r c, RowsLit sp cx cy h0 r c ∧ Frame.pixel k.fb r c = true) := by
  induction sp generalizing k h0 with
  | nil => simp [drawRows, RowsLit]
  | cons b rest ih =>
    simp only [List.length_cons] at hl
    obtain ⟨c1, c2⟩ := drawCols_spec b (screenRow cy h0) cx spriteCols k (by decide) fun w hw => by simpa using hw
    obtain ⟨i1, i2⟩ := ih (drawCols k b (screenRow cy h0) cx spriteCols) (h0 + 1) (by omega)
    have off := fun r c => rowsLit_ne_row rest cx cy h0 r c (by omega)
    simp only [drawRows]
    refine ⟨fun r c => ⟨fun h => ?_, fun h => ?_⟩, ?_⟩
    · rcases (rowsLit_cons b rest cx cy h0 r c).1 h with h | h
      · rw [(i1 r c).2 fun h' => off r c h' h.1, c1, if_pos h]
      · rw [(i1 r c).1 h, c1, if_neg fun h' => off r c h h'.1]
    · rw [rowsLit_cons] at h
      rw [(i1 r c).2 fun h' => h (.inr h'), c1, if_neg fun h' => h (.inl h')]
    · rw [i2, c2]
      constructor
      · rintro ((h | ⟨w, h1, h2, h3⟩) | ⟨r, c, h1, h2⟩)
        · exact .inl h
        · exact .inr ⟨_, _, (rowsLit_cons ..).2 (.inl ⟨rfl, w, h1, h2, rfl⟩), h3⟩
        · rw [c1, if_neg fun h' => off r c h1 h'.1] at h2
          exact .inr ⟨r, c, (rowsLit_cons ..).2 (.inr h1), h2⟩
      · rintro (h | ⟨r, c, h1, h2⟩)
        · exact .inl (.inl h)
        · rcases (rowsLit_cons b rest cx cy h0 r c).1 h1 with ⟨rfl, w, g1, g2, rfl⟩ | g
          · exact .inl (.inr ⟨w, g1, g2, h2⟩)
          · exact .inr ⟨r, c, g, by rw [c1, if_neg fun h' => off r c g h'.1]; exact h2⟩

/-- The lit pixels of the `n` bytes at `I` are those the claims speak of (Safety). -/
theorem rowsLit_readBytes (s : State) (n : Nat) (cx cy : Byte) (r : Fin 32) (c : Fin 64) :
    RowsLit (s.mem.readBytes s.I.toNat n) cx cy 0 r c ↔ Lit s n cx cy r c := by
  unfold RowsLit Lit
  simp only [Memory.readBytes_length]
  constructor
  · rintro ⟨h, w, h1, h2, h3, rfl, rfl⟩
    rw [Memory.readBytes_getD _ _ _ _ _ h1] at h3
    exact ⟨h, w, h1, h2, h3, by simp [screenRow], rfl⟩
  · rintro ⟨h, w, h1, h2, h3, h4, h5⟩
    refine ⟨h, w, h1, h2, ?_, Fin.ext (by simp [screenRow, h4]), Fin.ext (by simp [screenCol, h5])⟩
    rw [Memory.readBytes_getD _ _ _ _ _ h1]; exact h3

end Sys2Proof.Machine
end

