-- ==== Sys2Proof/Laws/State.lean ====
section
/-! SUPPORT. One lemma per field per update of the state, each true by unfolding, so that no later proof unfolds a
record update; and what the accessors read after each. -/

namespace Sys2Proof.Machine

variable (s : State)

@[simp] theorem State.setReg_mem (r : Reg) (v : Byte) : (s.setReg r v).mem = s.mem := rfl
@[simp] theorem State.setReg_I (r : Reg) (v : Byte) : (s.setReg r v).I = s.I := rfl
@[simp] theorem State.setReg_pc (r : Reg) (v : Byte) : (s.setReg r v).pc = s.pc := rfl
@[simp] theorem State.setReg_stack (r : Reg) (v : Byte) : (s.setReg r v).stack = s.stack := rfl
@[simp] theorem State.setReg_DT (r : Reg) (v : Byte) : (s.setReg r v).DT = s.DT := rfl
@[simp] theorem State.setReg_ST (r : Reg) (v : Byte) : (s.setReg r v).ST = s.ST := rfl
@[simp] theorem State.setReg_KEY (r : Reg) (v : Byte) : (s.setReg r v).KEY = s.KEY := rfl
@[simp] theorem State.setReg_awaiting (r : Reg) (v : Byte) : (s.setReg r v).awaiting = s.awaiting := rfl
@[simp] theorem State.setReg_FB (r : Reg) (v : Byte) : (s.setReg r v).FB = s.FB := rfl
@[simp] theorem State.setReg_fault (r : Reg) (v : Byte) : (s.setReg r v).fault = s.fault := rfl
@[simp] theorem State.setReg_cfg (r : Reg) (v : Byte) : (s.setReg r v).cfg = s.cfg := rfl
@[simp] theorem State.setReg_draws (r : Reg) (v : Byte) : (s.setReg r v).draws = s.draws := rfl

@[simp] theorem State.setFlag_mem (v : Byte) : (s.setFlag v).mem = s.mem := rfl
@[simp] theorem State.setFlag_I (v : Byte) : (s.setFlag v).I = s.I := rfl
@[simp] theorem State.setFlag_pc (v : Byte) : (s.setFlag v).pc = s.pc := rfl
@[simp] theorem State.setFlag_stack (v : Byte) : (s.setFlag v).stack = s.stack := rfl
@[simp] theorem State.setFlag_DT (v : Byte) : (s.setFlag v).DT = s.DT := rfl
@[simp] theorem State.setFlag_ST (v : Byte) : (s.setFlag v).ST = s.ST := rfl
@[simp] theorem State.setFlag_KEY (v : Byte) : (s.setFlag v).KEY = s.KEY := rfl
@[simp] theorem State.setFlag_awaiting (v : Byte) : (s.setFlag v).awaiting = s.awaiting := rfl
@[simp] theorem State.setFlag_FB (v : Byte) : (s.setFlag v).FB = s.FB := rfl
@[simp] theorem State.setFlag_fault (v : Byte) : (s.setFlag v).fault = s.fault := rfl
@[simp] theorem State.setFlag_cfg (v : Byte) : (s.setFlag v).cfg = s.cfg := rfl
@[simp] theorem State.setFlag_draws (v : Byte) : (s.setFlag v).draws = s.draws := rfl

@[simp] theorem State.setMem_mem (v : Memory) : (s.setMem v).mem = v := rfl
@[simp] theorem State.setMem_V (v : Memory) : (s.setMem v).V = s.V := rfl
@[simp] theorem State.setMem_I (v : Memory) : (s.setMem v).I = s.I := rfl
@[simp] theorem State.setMem_pc (v : Memory) : (s.setMem v).pc = s.pc := rfl
@[simp] theorem State.setMem_stack (v : Memory) : (s.setMem v).stack = s.stack := rfl
@[simp] theorem State.setMem_DT (v : Memory) : (s.setMem v).DT = s.DT := rfl
@[simp] theorem State.setMem_ST (v : Memory) : (s.setMem v).ST = s.ST := rfl
@[simp] theorem State.setMem_KEY (v : Memory) : (s.setMem v).KEY = s.KEY := rfl
@[simp] theorem State.setMem_awaiting (v : Memory) : (s.setMem v).awaiting = s.awaiting := rfl
@[simp] theorem State.setMem_FB (v : Memory) : (s.setMem v).FB = s.FB := rfl
@[simp] theorem State.setMem_fault (v : Memory) : (s.setMem v).fault = s.fault := rfl
@[simp] theorem State.setMem_cfg (v : Memory) : (s.setMem v).cfg = s.cfg := rfl
@[simp] theorem State.setMem_draws (v : Memory) : (s.setMem v).draws = s.draws := rfl
@[simp] theorem State.reg_setMem (v : Memory) (q : Reg) : (s.setMem v).reg q = s.reg q := rfl
@[simp] theorem State.keyDown_setMem (v : Memory) (k : Key) : (s.setMem v).keyDown k = s.keyDown k := rfl

@[simp] theorem State.setStack_mem (v : List Word) : (s.setStack v).mem = s.mem := rfl
@[simp] theorem State.setStack_V (v : List Word) : (s.setStack v).V = s.V := rfl
@[simp] theorem State.setStack_I (v : List Word) : (s.setStack v).I = s.I := rfl
@[simp] theorem State.setStack_pc (v : List Word) : (s.setStack v).pc = s.pc := rfl
@[simp] theorem State.setStack_stack (v : List Word) : (s.setStack v).stack = v := rfl
@[simp] theorem State.setStack_DT (v : List Word) : (s.setStack v).DT = s.DT := rfl
@[simp] theorem State.setStack_ST (v : List Word) : (s.setStack v).ST = s.ST := rfl
@[simp] theorem State.setStack_KEY (v : List Word) : (s.setStack v).KEY = s.KEY := rfl
@[simp] theorem State.setStack_awaiting (v : List Word) : (s.setStack v).awaiting = s.awaiting := rfl
@[simp] theorem State.setStack_FB (v : List Word) : (s.setStack v).FB = s.FB := rfl
@[simp] theorem State.setStack_fault (v : List Word) : (s.setStack v).fault = s.fault := rfl
@[simp] theorem State.setStack_cfg (v : List Word) : (s.setStack v).cfg = s.cfg := rfl
@[simp] theorem State.setStack_draws (v : List Word) : (s.setStack v).draws = s.draws := rfl
@[simp] theorem State.reg_setStack (v : List Word) (q : Reg) : (s.setStack v).reg q = s.reg q := rfl
@[simp] theorem State.keyDown_setStack (v : List Word) (k : Key) : (s.setStack v).keyDown k = s.keyDown k := rfl

@[simp] theorem State.setDT_mem (v : Byte) : (s.setDT v).mem = s.mem := rfl
@[simp] theorem State.setDT_V (v : Byte) : (s.setDT v).V = s.V := rfl
@[simp] theorem State.setDT_I (v : Byte) : (s.setDT v).I = s.I := rfl
@[simp] theorem State.setDT_pc (v : Byte) : (s.setDT v).pc = s.pc := rfl
@[simp] theorem State.setDT_stack (v : Byte) : (s.setDT v).stack = s.stack := rfl
@[simp] theorem State.setDT_DT (v : Byte) : (s.setDT v).DT = v := rfl
@[simp] theorem State.setDT_ST (v : Byte) : (s.setDT v).ST = s.ST := rfl
@[simp] theorem State.setDT_KEY (v : Byte) : (s.setDT v).KEY = s.KEY := rfl
@[simp] theorem State.setDT_awaiting (v : Byte) : (s.setDT v).awaiting = s.awaiting := rfl
@[simp] theorem State.setDT_FB (v : Byte) : (s.setDT v).FB = s.FB := rfl
@[simp] theorem State.setDT_fault (v : Byte) : (s.setDT v).fault = s.fault := rfl
@[simp] theorem State.setDT_cfg (v : Byte) : (s.setDT v).cfg = s.cfg := rfl
@[simp] theorem State.setDT_draws (v : Byte) : (s.setDT v).draws = s.draws := rfl
@[simp] theorem State.reg_setDT (v : Byte) (q : Reg) : (s.setDT v).reg q = s.reg q := rfl
@[simp] theorem State.keyDown_setDT (v : Byte) (k : Key) : (s.setDT v).keyDown k = s.keyDown k := rfl

@[simp] theorem State.setST_mem (v : Byte) : (s.setST v).mem = s.mem := rfl
@[simp] theorem State.setST_V (v : Byte) : (s.setST v).V = s.V := rfl
@[simp] theorem State.setST_I (v : Byte) : (s.setST v).I = s.I := rfl
@[simp] theorem State.setST_pc (v : Byte) : (s.setST v).pc = s.pc := rfl
@[simp] theorem State.setST_stack (v : Byte) : (s.setST v).stack = s.stack := rfl
@[simp] theorem State.setST_DT (v : Byte) : (s.setST v).DT = s.DT := rfl
@[simp] theorem State.setST_ST (v : Byte) : (s.setST v).ST = v := rfl
@[simp] theorem State.setST_KEY (v : Byte) : (s.setST v).KEY = s.KEY := rfl
@[simp] theorem State.setST_awaiting (v : Byte) : (s.setST v).awaiting = s.awaiting := rfl
@[simp] theorem State.setST_FB (v : Byte) : (s.setST v).FB = s.FB := rfl
@[simp] theorem State.setST_fault (v : Byte) : (s.setST v).fault = s.fault := rfl
@[simp] theorem State.setST_cfg (v : Byte) : (s.setST v).cfg = s.cfg := rfl
@[simp] theorem State.setST_draws (v : Byte) : (s.setST v).draws = s.draws := rfl
@[simp] theorem State.reg_setST (v : Byte) (q : Reg) : (s.setST v).reg q = s.reg q := rfl
@[simp] theorem State.keyDown_setST (v : Byte) (k : Key) : (s.setST v).keyDown k = s.keyDown k := rfl

@[simp] theorem State.setAwaiting_mem (v : Option Reg) : (s.setAwaiting v).mem = s.mem := rfl
@[simp] theorem State.setAwaiting_V (v : Option Reg) : (s.setAwaiting v).V = s.V := rfl
@[simp] theorem State.setAwaiting_I (v : Option Reg) : (s.setAwaiting v).I = s.I := rfl
@[simp] theorem State.setAwaiting_pc (v : Option Reg) : (s.setAwaiting v).pc = s.pc := rfl
@[simp] theorem State.setAwaiting_stack (v : Option Reg) : (s.setAwaiting v).stack = s.stack := rfl
@[simp] theorem State.setAwaiting_DT (v : Option Reg) : (s.setAwaiting v).DT = s.DT := rfl
@[simp] theorem State.setAwaiting_ST (v : Option Reg) : (s.setAwaiting v).ST = s.ST := rfl
@[simp] theorem State.setAwaiting_KEY (v : Option Reg) : (s.setAwaiting v).KEY = s.KEY := rfl
@[simp] theorem State.setAwaiting_awaiting (v : Option Reg) : (s.setAwaiting v).awaiting = v := rfl
@[simp] theorem State.setAwaiting_FB (v : Option Reg) : (s.setAwaiting v).FB = s.FB := rfl
@[simp] theorem State.setAwaiting_fault (v : Option Reg) : (s.setAwaiting v).fault = s.fault := rfl
@[simp] theorem State.setAwaiting_cfg (v : Option Reg) : (s.setAwaiting v).cfg = s.cfg := rfl
@[simp] theorem State.setAwaiting_draws (v : Option Reg) : (s.setAwaiting v).draws = s.draws := rfl
@[simp] theorem State.reg_setAwaiting (v : Option Reg) (q : Reg) : (s.setAwaiting v).reg q = s.reg q := rfl
@[simp] theorem State.keyDown_setAwaiting (v : Option Reg) (k : Key) : (s.setAwaiting v).keyDown k = s.keyDown k := rfl

@[simp] theorem State.setFB_mem (v : Frame) : (s.setFB v).mem = s.mem := rfl
@[simp] theorem State.setFB_V (v : Frame) : (s.setFB v).V = s.V := rfl
@[simp] theorem State.setFB_I (v : Frame) : (s.setFB v).I = s.I := rfl
@[simp] theorem State.setFB_pc (v : Frame) : (s.setFB v).pc = s.pc := rfl
@[simp] theorem State.setFB_stack (v : Frame) : (s.setFB v).stack = s.stack := rfl
@[simp] theorem State.setFB_DT (v : Frame) : (s.setFB v).DT = s.DT := rfl
@[simp] theorem State.setFB_ST (v : Frame) : (s.setFB v).ST = s.ST := rfl
@[simp] theorem State.setFB_KEY (v : Frame) : (s.setFB v).KEY = s.KEY := rfl
@[simp] theorem State.setFB_awaiting (v : Frame) : (s.setFB v).awaiting = s.awaiting := rfl
@[simp] theorem State.setFB_FB (v : Frame) : (s.setFB v).FB = v := rfl
@[simp] theorem State.setFB_fault (v : Frame) : (s.setFB v).fault = s.fault := rfl
@[simp] theorem State.setFB_cfg (v : Frame) : (s.setFB v).cfg = s.cfg := rfl
@[simp] theorem State.setFB_draws (v : Frame) : (s.setFB v).draws = s.draws := rfl
@[simp] theorem State.reg_setFB (v : Frame) (q : Reg) : (s.setFB v).reg q = s.reg q := rfl
@[simp] theorem State.keyDown_setFB (v : Frame) (k : Key) : (s.setFB v).keyDown k = s.keyDown k := rfl

@[simp] theorem State.setI_mem (v : Word) : (s.setI v).mem = s.mem := rfl
@[simp] theorem State.setI_V (v : Word) : (s.setI v).V = s.V := rfl
@[simp] theorem State.setI_I (v : Word) : (s.setI v).I = v := rfl
@[simp] theorem State.setI_pc (v : Word) : (s.setI v).pc = s.pc := rfl
@[simp] theorem State.setI_stack (v : Word) : (s.setI v).stack = s.stack := rfl
@[simp] theorem State.setI_DT (v : Word) : (s.setI v).DT = s.DT := rfl
@[simp] theorem State.setI_ST (v : Word) : (s.setI v).ST = s.ST := rfl
@[simp] theorem State.setI_KEY (v : Word) : (s.setI v).KEY = s.KEY := rfl
@[simp] theorem State.setI_awaiting (v : Word) : (s.setI v).awaiting = s.awaiting := rfl
@[simp] theorem State.setI_FB (v : Word) : (s.setI v).FB = s.FB := rfl
@[simp] theorem State.setI_fault (v : Word) : (s.setI v).fault = s.fault := rfl
@[simp] theorem State.setI_cfg (v : Word) : (s.setI v).cfg = s.cfg := rfl
@[simp] theorem State.setI_draws (v : Word) : (s.setI v).draws = s.draws := rfl

@[simp] theorem State.jump_mem (v : Word) : (s.jump v).mem = s.mem := rfl
@[simp] theorem State.jump_V (v : Word) : (s.jump v).V = s.V := rfl
@[simp] theorem State.jump_I (v : Word) : (s.jump v).I = s.I := rfl
@[simp] theorem State.jump_pc (v : Word) : (s.jump v).pc = v := rfl
@[simp] theorem State.jump_stack (v : Word) : (s.jump v).stack = s.stack := rfl
@[simp] theorem State.jump_DT (v : Word) : (s.jump v).DT = s.DT := rfl
@[simp] theorem State.jump_ST (v : Word) : (s.jump v).ST = s.ST := rfl
@[simp] theorem State.jump_KEY (v : Word) : (s.jump v).KEY = s.KEY := rfl
@[simp] theorem State.jump_awaiting (v : Word) : (s.jump v).awaiting = s.awaiting := rfl
@[simp] theorem State.jump_FB (v : Word) : (s.jump v).FB = s.FB := rfl
@[simp] theorem State.jump_fault (v : Word) : (s.jump v).fault = s.fault := rfl
@[simp] theorem State.jump_cfg (v : Word) : (s.jump v).cfg = s.cfg := rfl
@[simp] theorem State.jump_draws (v : Word) : (s.jump v).draws = s.draws := rfl

@[simp] theorem State.epilogue_mem : s.epilogue.mem = s.mem := rfl
@[simp] theorem State.epilogue_V : s.epilogue.V = s.V := rfl
@[simp] theorem State.epilogue_I : s.epilogue.I = s.I := rfl
@[simp] theorem State.epilogue_pc : s.epilogue.pc = s.pc + 2#16 := rfl
@[simp] theorem State.epilogue_stack : s.epilogue.stack = s.stack := rfl
@[simp] theorem State.epilogue_DT : s.epilogue.DT = s.DT := rfl
@[simp] theorem State.epilogue_ST : s.epilogue.ST = s.ST := rfl
@[simp] theorem State.epilogue_KEY : s.epilogue.KEY = s.KEY := rfl
@[simp] theorem State.epilogue_awaiting : s.epilogue.awaiting = s.awaiting := rfl
@[simp] theorem State.epilogue_FB : s.epilogue.FB = s.FB := rfl
@[simp] theorem State.epilogue_fault : s.epilogue.fault = s.fault := rfl
@[simp] theorem State.epilogue_cfg : s.epilogue.cfg = s.cfg := rfl
@[simp] theorem State.epilogue_draws : s.epilogue.draws = s.draws := rfl

@[simp] theorem State.setKey_mem (k : Key) (p : Bool) : (s.setKey k p).mem = s.mem := rfl
@[simp] theorem State.setKey_V (k : Key) (p : Bool) : (s.setKey k p).V = s.V := rfl
@[simp] theorem State.setKey_I (k : Key) (p : Bool) : (s.setKey k p).I = s.I := rfl
@[simp] theorem State.setKey_pc (k : Key) (p : Bool) : (s.setKey k p).pc = s.pc := rfl
@[simp] theorem State.setKey_stack (k : Key) (p : Bool) : (s.setKey k p).stack = s.stack := rfl
@[simp] theorem State.setKey_DT (k : Key) (p : Bool) : (s.setKey k p).DT = s.DT := rfl
@[simp] theorem State.setKey_ST (k : Key) (p : Bool) : (s.setKey k p).ST = s.ST := rfl
@[simp] theorem State.setKey_awaiting (k : Key) (p : Bool) : (s.setKey k p).awaiting = s.awaiting := rfl
@[simp] theorem State.setKey_FB (k : Key) (p : Bool) : (s.setKey k p).FB = s.FB := rfl
@[simp] theorem State.setKey_fault (k : Key) (p : Bool) : (s.setKey k p).fault = s.fault := rfl
@[simp] theorem State.setKey_cfg (k : Key) (p : Bool) : (s.setKey k p).cfg = s.cfg := rfl
@[simp] theorem State.setKey_draws (k : Key) (p : Bool) : (s.setKey k p).draws = s.draws := rfl

@[simp] theorem State.raiseFatal_mem (c : Cause) : (s.raiseFatal c).mem = s.mem := rfl
@[simp] theorem State.raiseFatal_V (c : Cause) : (s.raiseFatal c).V = s.V := rfl
@[simp] theorem State.raiseFatal_I (c : Cause) : (s.raiseFatal c).I = s.I := rfl
@[simp] theorem State.raiseFatal_pc (c : Cause) : (s.raiseFatal c).pc = s.pc := rfl
@[simp] theorem State.raiseFatal_stack (c : Cause) : (s.raiseFatal c).stack = s.stack := rfl
@[simp] theorem State.raiseFatal_DT (c : Cause) : (s.raiseFatal c).DT = s.DT := rfl
@[simp] theorem State.raiseFatal_ST (c : Cause) : (s.raiseFatal c).ST = s.ST := rfl
@[simp] theorem State.raiseFatal_KEY (c : Cause) : (s.raiseFatal c).KEY = s.KEY := rfl
@[simp] theorem State.raiseFatal_awaiting (c : Cause) : (s.raiseFatal c).awaiting = s.awaiting := rfl
@[simp] theorem State.raiseFatal_FB (c : Cause) : (s.raiseFatal c).FB = s.FB := rfl
@[simp] theorem State.raiseFatal_fault (c : Cause) : (s.raiseFatal c).fault = some (c, s.pc) := rfl
@[simp] theorem State.raiseFatal_cfg (c : Cause) : (s.raiseFatal c).cfg = s.cfg := rfl
@[simp] theorem State.raiseFatal_draws (c : Cause) : (s.raiseFatal c).draws = s.draws := rfl

@[simp] theorem State.setFirstRegs_mem (bs : List Byte) : (s.setFirstRegs bs).mem = s.mem := rfl
@[simp] theorem State.setFirstRegs_I (bs : List Byte) : (s.setFirstRegs bs).I = s.I := rfl
@[simp] theorem State.setFirstRegs_pc (bs : List Byte) : (s.setFirstRegs bs).pc = s.pc := rfl
@[simp] theorem State.setFirstRegs_stack (bs : List Byte) : (s.setFirstRegs bs).stack = s.stack := rfl
@[simp] theorem State.setFirstRegs_DT (bs : List Byte) : (s.setFirstRegs bs).DT = s.DT := rfl
@[simp] theorem State.setFirstRegs_ST (bs : List Byte) : (s.setFirstRegs bs).ST = s.ST := rfl
@[simp] theorem State.setFirstRegs_KEY (bs : List Byte) : (s.setFirstRegs bs).KEY = s.KEY := rfl
@[simp] theorem State.setFirstRegs_awaiting (bs : List Byte) : (s.setFirstRegs bs).awaiting = s.awaiting := rfl
@[simp] theorem State.setFirstRegs_FB (bs : List Byte) : (s.setFirstRegs bs).FB = s.FB := rfl
@[simp] theorem State.setFirstRegs_fault (bs : List Byte) : (s.setFirstRegs bs).fault = s.fault := rfl
@[simp] theorem State.setFirstRegs_cfg (bs : List Byte) : (s.setFirstRegs bs).cfg = s.cfg := rfl
@[simp] theorem State.setFirstRegs_draws (bs : List Byte) : (s.setFirstRegs bs).draws = s.draws := rfl

@[simp] theorem State.countDraw_mem : s.countDraw.mem = s.mem := rfl
@[simp] theorem State.countDraw_V : s.countDraw.V = s.V := rfl
@[simp] theorem State.countDraw_I : s.countDraw.I = s.I := rfl
@[simp] theorem State.countDraw_pc : s.countDraw.pc = s.pc := rfl
@[simp] theorem State.countDraw_stack : s.countDraw.stack = s.stack := rfl
@[simp] theorem State.countDraw_DT : s.countDraw.DT = s.DT := rfl
@[simp] theorem State.countDraw_ST : s.countDraw.ST = s.ST := rfl
@[simp] theorem State.countDraw_KEY : s.countDraw.KEY = s.KEY := rfl
@[simp] theorem State.countDraw_awaiting : s.countDraw.awaiting = s.awaiting := rfl
@[simp] theorem State.countDraw_FB : s.countDraw.FB = s.FB := rfl
@[simp] theorem State.countDraw_fault : s.countDraw.fault = s.fault := rfl
@[simp] theorem State.countDraw_cfg : s.countDraw.cfg = s.cfg := rfl
@[simp] theorem State.countDraw_draws : s.countDraw.draws = s.draws + 1 := rfl

@[simp] theorem State.writeResult_mem (x : Reg) (v f : Byte) : (s.writeResult x v f).mem = s.mem := rfl
@[simp] theorem State.writeResult_I (x : Reg) (v f : Byte) : (s.writeResult x v f).I = s.I := rfl
@[simp] theorem State.writeResult_pc (x : Reg) (v f : Byte) : (s.writeResult x v f).pc = s.pc + 2#16 := rfl
@[simp] theorem State.writeResult_stack (x : Reg) (v f : Byte) : (s.writeResult x v f).stack = s.stack := rfl
@[simp] theorem State.writeResult_DT (x : Reg) (v f : Byte) : (s.writeResult x v f).DT = s.DT := rfl
@[simp] theorem State.writeResult_ST (x : Reg) (v f : Byte) : (s.writeResult x v f).ST = s.ST := rfl
@[simp] theorem State.writeResult_KEY (x : Reg) (v f : Byte) : (s.writeResult x v f).KEY = s.KEY := rfl
@[simp] theorem State.writeResult_awaiting (x : Reg) (v f : Byte) : (s.writeResult x v f).awaiting = s.awaiting := rfl
@[simp] theorem State.writeResult_FB (x : Reg) (v f : Byte) : (s.writeResult x v f).FB = s.FB := rfl
@[simp] theorem State.writeResult_fault (x : Reg) (v f : Byte) : (s.writeResult x v f).fault = s.fault := rfl
@[simp] theorem State.writeResult_cfg (x : Reg) (v f : Byte) : (s.writeResult x v f).cfg = s.cfg := rfl
@[simp] theorem State.writeResult_draws (x : Reg) (v f : Byte) : (s.writeResult x v f).draws = s.draws := rfl

@[simp] theorem State.writeRandom_mem (x : Reg) (nn r : Byte) : (s.writeRandom x nn r).mem = s.mem := rfl
@[simp] theorem State.writeRandom_I (x : Reg) (nn r : Byte) : (s.writeRandom x nn r).I = s.I := rfl
@[simp] theorem State.writeRandom_pc (x : Reg) (nn r : Byte) : (s.writeRandom x nn r).pc = s.pc + 2#16 := rfl
@[simp] theorem State.writeRandom_stack (x : Reg) (nn r : Byte) : (s.writeRandom x nn r).stack = s.stack := rfl
@[simp] theorem State.writeRandom_DT (x : Reg) (nn r : Byte) : (s.writeRandom x nn r).DT = s.DT := rfl
@[simp] theorem State.writeRandom_ST (x : Reg) (nn r : Byte) : (s.writeRandom x nn r).ST = s.ST := rfl
@[simp] theorem State.writeRandom_KEY (x : Reg) (nn r : Byte) : (s.writeRandom x nn r).KEY = s.KEY := rfl
@[simp] theorem State.writeRandom_awaiting (x : Reg) (nn r : Byte) : (s.writeRandom x nn r).awaiting = s.awaiting := rfl
@[simp] theorem State.writeRandom_FB (x : Reg) (nn r : Byte) : (s.writeRandom x nn r).FB = s.FB := rfl
@[simp] theorem State.writeRandom_fault (x : Reg) (nn r : Byte) : (s.writeRandom x nn r).fault = s.fault := rfl
@[simp] theorem State.writeRandom_cfg (x : Reg) (nn r : Byte) : (s.writeRandom x nn r).cfg = s.cfg := rfl
@[simp] theorem State.writeRandom_draws (x : Reg) (nn r : Byte) : (s.writeRandom x nn r).draws = s.draws + 1 := rfl

@[simp] theorem State.skipIf_mem (p : Bool) : (s.skipIf p).mem = s.mem := by cases p <;> rfl
@[simp] theorem State.skipIf_V (p : Bool) : (s.skipIf p).V = s.V := by cases p <;> rfl
@[simp] theorem State.skipIf_I (p : Bool) : (s.skipIf p).I = s.I := by cases p <;> rfl
@[simp] theorem State.skipIf_stack (p : Bool) : (s.skipIf p).stack = s.stack := by cases p <;> rfl
@[simp] theorem State.skipIf_DT (p : Bool) : (s.skipIf p).DT = s.DT := by cases p <;> rfl
@[simp] theorem State.skipIf_ST (p : Bool) : (s.skipIf p).ST = s.ST := by cases p <;> rfl
@[simp] theorem State.skipIf_KEY (p : Bool) : (s.skipIf p).KEY = s.KEY := by cases p <;> rfl
@[simp] theorem State.skipIf_awaiting (p : Bool) : (s.skipIf p).awaiting = s.awaiting := by cases p <;> rfl
@[simp] theorem State.skipIf_FB (p : Bool) : (s.skipIf p).FB = s.FB := by cases p <;> rfl
@[simp] theorem State.skipIf_fault (p : Bool) : (s.skipIf p).fault = s.fault := by cases p <;> rfl
@[simp] theorem State.skipIf_cfg (p : Bool) : (s.skipIf p).cfg = s.cfg := by cases p <;> rfl
@[simp] theorem State.skipIf_draws (p : Bool) : (s.skipIf p).draws = s.draws := by cases p <;> rfl

@[simp] theorem State.advanceI_mem (k : Nat) : (s.advanceI k).mem = s.mem := by unfold State.advanceI; split <;> rfl
@[simp] theorem State.advanceI_V (k : Nat) : (s.advanceI k).V = s.V := by unfold State.advanceI; split <;> rfl
@[simp] theorem State.advanceI_pc (k : Nat) : (s.advanceI k).pc = s.pc := by unfold State.advanceI; split <;> rfl
@[simp] theorem State.advanceI_stack (k : Nat) : (s.advanceI k).stack = s.stack := by unfold State.advanceI; split <;> rfl
@[simp] theorem State.advanceI_DT (k : Nat) : (s.advanceI k).DT = s.DT := by unfold State.advanceI; split <;> rfl
@[simp] theorem State.advanceI_ST (k : Nat) : (s.advanceI k).ST = s.ST := by unfold State.advanceI; split <;> rfl
@[simp] theorem State.advanceI_KEY (k : Nat) : (s.advanceI k).KEY = s.KEY := by unfold State.advanceI; split <;> rfl
@[simp] theorem State.advanceI_awaiting (k : Nat) : (s.advanceI k).awaiting = s.awaiting := by unfold State.advanceI; split <;> rfl
@[simp] theorem State.advanceI_FB (k : Nat) : (s.advanceI k).FB = s.FB := by unfold State.advanceI; split <;> rfl
@[simp] theorem State.advanceI_fault (k : Nat) : (s.advanceI k).fault = s.fault := by unfold State.advanceI; split <;> rfl
@[simp] theorem State.advanceI_cfg (k : Nat) : (s.advanceI k).cfg = s.cfg := by unfold State.advanceI; split <;> rfl
@[simp] theorem State.advanceI_draws (k : Nat) : (s.advanceI k).draws = s.draws := by unfold State.advanceI; split <;> rfl

@[simp] theorem State.writeLogic_mem (x : Reg) (v : Byte) : (s.writeLogic x v).mem = s.mem := by unfold State.writeLogic; split <;> rfl
@[simp] theorem State.writeLogic_I (x : Reg) (v : Byte) : (s.writeLogic x v).I = s.I := by unfold State.writeLogic; split <;> rfl
@[simp] theorem State.writeLogic_pc (x : Reg) (v : Byte) : (s.writeLogic x v).pc = s.pc + 2#16 := by unfold State.writeLogic; split <;> rfl
@[simp] theorem State.writeLogic_stack (x : Reg) (v : Byte) : (s.writeLogic x v).stack = s.stack := by unfold State.writeLogic; split <;> rfl
@[simp] theorem State.writeLogic_DT (x : Reg) (v : Byte) : (s.writeLogic x v).DT = s.DT := by unfold State.writeLogic; split <;> rfl
@[simp] theorem State.writeLogic_ST (x : Reg) (v : Byte) : (s.writeLogic x v).ST = s.ST := by unfold State.writeLogic; split <;> rfl
@[simp] theorem State.writeLogic_KEY (x : Reg) (v : Byte) : (s.writeLogic x v).KEY = s.KEY := by unfold State.writeLogic; split <;> rfl
@[simp] theorem State.writeLogic_awaiting (x : Reg) (v : Byte) : (s.writeLogic x v).awaiting = s.awaiting := by unfold State.writeLogic; split <;> rfl
@[simp] theorem State.writeLogic_FB (x : Reg) (v : Byte) : (s.writeLogic x v).FB = s.FB := by unfold State.writeLogic; split <;> rfl
@[simp] theorem State.writeLogic_fault (x : Reg) (v : Byte) : (s.writeLogic x v).fault = s.fault := by unfold State.writeLogic; split <;> rfl
@[simp] theorem State.writeLogic_cfg (x : Reg) (v : Byte) : (s.writeLogic x v).cfg = s.cfg := by unfold State.writeLogic; split <;> rfl
@[simp] theorem State.writeLogic_draws (x : Reg) (v : Byte) : (s.writeLogic x v).draws = s.draws := by unfold State.writeLogic; split <;> rfl

/-- The two advances of a skip instruction (40_control.md R93). -/
@[simp] theorem State.skipIf_pc (p : Bool) : (s.skipIf p).pc = if p then s.pc + 4#16 else s.pc + 2#16 := by
  cases p
  · rfl
  · show s.pc + 2#16 + 2#16 = s.pc + 4#16
    rw [BitVec.add_assoc]; rfl

/-- `I` after `FX55` and `FX65`, under either value of LOADSTORE_I (42_index_memory.md R154, R155). -/
@[simp] theorem State.advanceI_I (k : Nat) :
    (s.advanceI k).I = if s.cfg.loadStoreI = .advance then s.I + BitVec.ofNat 16 k else s.I := by
  unfold State.advanceI
  cases h : s.cfg.loadStoreI <;> simp

/-- The accessors see only their own field. -/
theorem State.reg_of_V {s t : State} (h : t.V = s.V) (r : Reg) : t.reg r = s.reg r := by
  unfold State.reg; simp only [h]

theorem State.keyDown_of_KEY {s t : State} (h : t.KEY = s.KEY) (k : Key) : t.keyDown k = s.keyDown k := by
  unfold State.keyDown; simp only [h]

/-- A register reads back what was written to it, and every other register is unchanged. -/
@[simp] theorem State.reg_setReg (r q : Reg) (v : Byte) :
    (s.setReg r v).reg q = if q = r then v else s.reg q := by
  simp only [State.reg, State.setReg, Vector.getElem_set]
  by_cases h : q = r
  · simp [h]
  · simp [h, Fin.val_ne_of_ne (Ne.symm h)]

@[simp] theorem State.reg_setFlag (q : Reg) (v : Byte) :
    (s.setFlag v).reg q = if q = vfReg then v else s.reg q := State.reg_setReg s vfReg q v

/-- The registers `FX65` loads, and the ones it leaves (42_index_memory.md R155). -/
@[simp] theorem State.reg_setFirstRegs (bs : List Byte) (q : Reg) :
    (s.setFirstRegs bs).reg q = bs.getD q.val (s.reg q) := by
  simp [State.reg, State.setFirstRegs]

@[simp] theorem State.keyDown_setKey (k q : Key) (p : Bool) :
    (s.setKey k p).keyDown q = if q = k then p else s.keyDown q := by
  simp only [State.keyDown, State.setKey, Vector.getElem_set]
  by_cases h : q = k
  · simp [h]
  · simp [h, Fin.val_ne_of_ne (Ne.symm h)]

@[simp] theorem State.reg_setI (v : Word) (q : Reg) : (s.setI v).reg q = s.reg q := rfl
@[simp] theorem State.reg_jump (v : Word) (q : Reg) : (s.jump v).reg q = s.reg q := rfl
@[simp] theorem State.reg_epilogue (q : Reg) : s.epilogue.reg q = s.reg q := rfl
@[simp] theorem State.reg_setKey (k : Key) (p : Bool) (q : Reg) : (s.setKey k p).reg q = s.reg q := rfl
@[simp] theorem State.reg_raiseFatal (c : Cause) (q : Reg) : (s.raiseFatal c).reg q = s.reg q := rfl
@[simp] theorem State.reg_countDraw (q : Reg) : s.countDraw.reg q = s.reg q := rfl
@[simp] theorem State.reg_skipIf (p : Bool) (q : Reg) : (s.skipIf p).reg q = s.reg q := by cases p <;> rfl
@[simp] theorem State.reg_advanceI (k : Nat) (q : Reg) : (s.advanceI k).reg q = s.reg q :=
  State.reg_of_V (by simp) q

/-- The result of an arithmetic instruction and its flag, the flag written last (00_scope.md R12, D2). -/
@[simp] theorem State.reg_writeResult (x q : Reg) (v f : Byte) :
    (s.writeResult x v f).reg q = if q = vfReg then f else if q = x then v else s.reg q := by
  simp [State.writeResult]

/-- The result of a logic instruction, under either value of LOGIC_VF_RESET (41_alu.md R123). -/
@[simp] theorem State.reg_writeLogic (x q : Reg) (v : Byte) :
    (s.writeLogic x v).reg q =
      if q = vfReg ∧ s.cfg.logicVfReset = true then 0x00#8 else if q = x then v else s.reg q := by
  unfold State.writeLogic
  split
  · rename_i h; simp [h]
  · rename_i h; simp [h]

@[simp] theorem State.reg_writeRandom (x q : Reg) (nn r : Byte) :
    (s.writeRandom x nn r).reg q = if q = x then r &&& nn else s.reg q := by
  simp [State.writeRandom]

/-- No update but `setKey` touches the keypad (10_state.md R30). -/
@[simp] theorem State.keyDown_setReg (r : Reg) (v : Byte) (k : Key) : (s.setReg r v).keyDown k = s.keyDown k := rfl
@[simp] theorem State.keyDown_setFlag (v : Byte) (k : Key) : (s.setFlag v).keyDown k = s.keyDown k := rfl
@[simp] theorem State.keyDown_setI (v : Word) (k : Key) : (s.setI v).keyDown k = s.keyDown k := rfl
@[simp] theorem State.keyDown_jump (v : Word) (k : Key) : (s.jump v).keyDown k = s.keyDown k := rfl
@[simp] theorem State.keyDown_epilogue (k : Key) : s.epilogue.keyDown k = s.keyDown k := rfl
@[simp] theorem State.keyDown_raiseFatal (c : Cause) (k : Key) : (s.raiseFatal c).keyDown k = s.keyDown k := rfl
@[simp] theorem State.keyDown_setFirstRegs (bs : List Byte) (k : Key) :
    (s.setFirstRegs bs).keyDown k = s.keyDown k := rfl
@[simp] theorem State.keyDown_countDraw (k : Key) : s.countDraw.keyDown k = s.keyDown k := rfl
@[simp] theorem State.keyDown_writeResult (x : Reg) (v f : Byte) (k : Key) :
    (s.writeResult x v f).keyDown k = s.keyDown k := rfl
@[simp] theorem State.keyDown_writeRandom (x : Reg) (nn r : Byte) (k : Key) :
    (s.writeRandom x nn r).keyDown k = s.keyDown k := rfl
@[simp] theorem State.keyDown_skipIf (p : Bool) (k : Key) : (s.skipIf p).keyDown k = s.keyDown k := by cases p <;> rfl
@[simp] theorem State.keyDown_advanceI (n : Nat) (k : Key) : (s.advanceI n).keyDown k = s.keyDown k :=
  State.keyDown_of_KEY (by simp) k
@[simp] theorem State.keyDown_writeLogic (x : Reg) (v : Byte) (k : Key) :
    (s.writeLogic x v).keyDown k = s.keyDown k :=
  State.keyDown_of_KEY (by simp) k

end Sys2Proof.Machine
end

