-- ==== Sys2Proof/Laws/Ops.lean ====
section
/-! SUPPORT. One lemma per shared operation that says everything it can do; later proofs cite it and do not unfold
the operation. -/

namespace Sys2Proof.Machine

variable (s t : State)

/-- An instruction that completes through `State.complete` answers its own next state or the Fatal it raised. -/
theorem State.complete_next (r : Except Cause State) :
    s.complete r = .next t ↔ r = .ok t ∨ ∃ c, r = .error c ∧ t = s.raiseFatal c := by
  cases r with
  | ok u => simp [State.complete]
  | error c => simp [State.complete, eq_comm]

@[simp] theorem State.complete_ok : s.complete (.ok t) = .next t := rfl

@[simp] theorem State.complete_error (c : Cause) : s.complete (.error c) = .next (s.raiseFatal c) := rfl

/-- `push` (10_state.md R27). -/
theorem State.push_eq (v : Word) :
    s.push v = if s.stack.length = s.cfg.stackDepth then .error .stackOverflow
      else .ok (s.setStack (s.stack ++ [v])) := rfl

/-- `pop` of an empty stack (R27). -/
theorem State.pop_empty (h : s.stack = []) : s.pop = .error .stackUnderflow := by
  simp [State.pop, h]

/-- `pop` takes the last element (R27). -/
theorem State.pop_last (l : List Word) (v : Word) (h : s.stack = l ++ [v]) :
    s.pop = .ok (v, s.setStack l) := by
  simp [State.pop, h]

/-- Everything `pop` can do. -/
theorem State.pop_cases :
    (s.stack = [] ∧ s.pop = .error .stackUnderflow) ∨
      ∃ l v, s.stack = l ++ [v] ∧ s.pop = .ok (v, s.setStack l) := by
  rcases List.eq_nil_or_concat s.stack with h | ⟨l, v, h⟩
  · exact .inl ⟨h, s.pop_empty h⟩
  · rw [List.concat_eq_append] at h
    exact .inr ⟨l, v, h, s.pop_last l v h⟩

theorem State.inRange_iff (n : Nat) : s.inRange n = true ↔ s.I.toNat + n ≤ 4096 := by
  exact decide_eq_true_iff

theorem State.reserved_iff : s.reserved = true ↔ s.cfg.lowWrite = .fault ∧ s.I.toNat < 0x200 := by
  simp [State.reserved]

/-- A read at `I` inside the address space (20_memory.md R55). -/
theorem State.loadAtI_ok (n : Nat) (h : s.I.toNat + n ≤ 4096) :
    s.loadAtI n = .ok (s.mem.readBytes s.I.toNat n) := by
  rw [State.loadAtI, if_pos ((s.inRange_iff n).2 h)]

/-- A read at `I` that reaches past address 4095 (R55). -/
theorem State.loadAtI_range (n : Nat) (h : 4096 < s.I.toNat + n) : s.loadAtI n = .error .memoryOutOfRange := by
  have h' : ¬ s.inRange n = true := fun hr => by have := (s.inRange_iff n).1 hr; omega
  rw [State.loadAtI, if_neg h']

/-- A write at `I` that both checks let through (R55, R59). -/
theorem State.storeAtI_ok (bs : List Byte) (h : s.I.toNat + bs.length ≤ 4096)
    (hr : s.cfg.lowWrite = .allow ∨ 0x200 ≤ s.I.toNat) :
    s.storeAtI bs = .ok (s.setMem (s.mem.writeBytes s.I.toNat bs)) := by
  have h' : ¬ s.reserved = true := fun hx => by
    obtain ⟨h1, h2⟩ := s.reserved_iff.1 hx
    rcases hr with hr | hr
    · rw [hr] at h1; cases h1
    · omega
  rw [State.storeAtI, if_pos ((s.inRange_iff _).2 h), if_neg h']

/-- A write at `I` that reaches past address 4095 (R55). -/
theorem State.storeAtI_range (bs : List Byte) (h : 4096 < s.I.toNat + bs.length) :
    s.storeAtI bs = .error .memoryOutOfRange := by
  have h' : ¬ s.inRange bs.length = true := fun hr => by have := (s.inRange_iff bs.length).1 hr; omega
  rw [State.storeAtI, if_neg h']

/-- A write at `I` into the reserved region under LOW_WRITE = fault (R59). -/
theorem State.storeAtI_reserved (bs : List Byte) (h : s.I.toNat + bs.length ≤ 4096)
    (hf : s.cfg.lowWrite = .fault) (hl : s.I.toNat < 0x200) : s.storeAtI bs = .error .reservedWrite := by
  rw [State.storeAtI, if_pos ((s.inRange_iff _).2 h), if_pos (s.reserved_iff.2 ⟨hf, hl⟩)]

/-- Everything a write at `I` can do when it succeeds. -/
theorem State.storeAtI_eq_ok (bs : List Byte) (h : s.storeAtI bs = .ok t) :
    s.I.toNat + bs.length ≤ 4096 ∧ (s.cfg.lowWrite = .allow ∨ 0x200 ≤ s.I.toNat) ∧
      t = s.setMem (s.mem.writeBytes s.I.toNat bs) := by
  by_cases h1 : s.I.toNat + bs.length ≤ 4096
  · by_cases h2 : s.cfg.lowWrite = .allow ∨ 0x200 ≤ s.I.toNat
    · rw [s.storeAtI_ok bs h1 h2] at h
      exact ⟨h1, h2, (Except.ok.inj h).symm⟩
    · have h3 : s.cfg.lowWrite = .fault := by
        cases hw : s.cfg.lowWrite with
        | fault => rfl
        | allow => exact absurd (.inl hw) h2
      have h4 : s.I.toNat < 0x200 := by
        rcases Nat.lt_or_ge s.I.toNat 0x200 with h5 | h5
        · exact h5
        · exact absurd (.inr h5) h2
      rw [s.storeAtI_reserved bs h1 h3 h4] at h
      cases h
  · rw [s.storeAtI_range bs (by omega)] at h
    cases h

@[simp] theorem State.firstRegs_length (x : Reg) : (s.firstRegs (regCount x)).length = x.val + 1 := by
  have := x.isLt
  simp only [State.firstRegs, regCount, List.length_take, Vector.length_toList]
  omega

/-- The k-th of the first registers is `V[k]` (42_index_memory.md R154). -/
theorem State.firstRegs_getD (n : Nat) (r : Reg) (d : Byte) (h : r.val < n) :
    (s.firstRegs n).getD r.val d = s.reg r := by
  have hr := r.isLt
  simp [State.firstRegs, State.reg, List.getD_eq_getElem?_getD, h, hr]

@[simp] theorem bcdDigits_length (v : Byte) : (bcdDigits v).length = 3 := rfl

/-- The fetch inside the address space (40_control.md R91). -/
theorem State.fetch_ok (h : s.pc.toNat + 2 ≤ 4096) :
    s.fetch = .ok (wordOfBytes (s.mem.read s.pc.toNat) (s.mem.read (s.pc.toNat + 1))) := by
  have h' : s.fetchInRange = true := decide_eq_true_iff.2 h
  rw [State.fetch, if_pos h']

/-- The fetch past address 4094 (R91). -/
theorem State.fetch_range (h : 4096 < s.pc.toNat + 2) : s.fetch = .error .fetchOutOfRange := by
  have h' : ¬ s.fetchInRange = true := fun hr => by
    have : s.pc.toNat + 2 ≤ 4096 := decide_eq_true_iff.1 hr
    omega
  rw [State.fetch, if_neg h']

end Sys2Proof.Machine
end

