-- ==== Sys2Proof/Laws/Interface.lean ====
section
/-! SUPPORT. Everything the host's operations can do (44_timers_keys.md R203, R206, R207; 60_exceptions.md R226). -/

namespace Sys2Proof.Machine

variable (s t : State)

/-- The saturating decrement as a number (R203). -/
@[simp] theorem tickDown_toNat (b : Byte) : (tickDown b).toNat = b.toNat - 1 := by
  unfold tickDown
  split
  · rename_i h; subst h; rfl
  · rename_i h
    have h0 : b.toNat ≠ 0 := fun h' => h (BitVec.eq_of_toNat_eq h')
    have := b.isLt
    rw [BitVec.toNat_sub]
    simp only [BitVec.toNat_ofNat]
    omega

theorem tickTimers_running (h : s.fault = none) : tickTimers s = (s.setDT (tickDown s.DT)).setST (tickDown s.ST) := by
  simp only [tickTimers, h]

theorem tickTimers_faulted (h : s.fault ≠ none) : tickTimers s = s := by
  cases hf : s.fault with
  | none => exact absurd hf h
  | some _ => simp only [tickTimers, hf]

/-- A key event with a legal code is delivered (R206). -/
theorem keyEvent_of_lt (k : Key) (pressed : Bool) : keyEvent k.val pressed s = .next (deliverKey k pressed s) := by
  rw [keyEvent, dif_pos k.isLt]

/-- A key event that answers a next state had a legal code and was delivered (R206, R207). -/
theorem keyEvent_next (code : Nat) (pressed : Bool) (h : keyEvent code pressed s = .next t) :
    ∃ k : Key, code = k.val ∧ t = deliverKey k pressed s := by
  unfold keyEvent at h
  split at h
  · cases h; exact ⟨_, rfl, rfl⟩
  · cases h

/-- Everything a delivered key event can do: nothing on a faulted machine; else the key is set, and a press during a wait
on `r` writes the code to `V[r]` and ends the wait. -/
theorem deliverKey_cases (k : Key) (pressed : Bool) :
    (s.fault ≠ none ∧ deliverKey k pressed s = s) ∨
    (s.fault = none ∧ (pressed = false ∨ s.awaiting = none) ∧ deliverKey k pressed s = s.setKey k pressed) ∨
    (∃ r, s.fault = none ∧ pressed = true ∧ s.awaiting = some r ∧
      deliverKey k pressed s = ((s.setKey k pressed).setReg r (BitVec.ofNat 8 k.val)).setAwaiting none) := by
  unfold deliverKey
  cases hf : s.fault with
  | some _ => exact .inl ⟨by simp, rfl⟩
  | none =>
    cases pressed with
    | false => exact .inr (.inl ⟨rfl, .inl rfl, rfl⟩)
    | true =>
      cases ha : s.awaiting with
      | none =>
        refine .inr (.inl ⟨rfl, .inr rfl, ?_⟩)
        simp [State.endWait, ha]
      | some r =>
        refine .inr (.inr ⟨r, rfl, rfl, rfl, ?_⟩)
        simp [State.endWait, ha]

end Sys2Proof.Machine
end

