-- ==== Sys2Proof/Laws/PerInstr.lean ====
section
/-! SUPPORT. Per instruction: the encoder puts every instruction in its own row of spec/opcode_table.json
(30_encoding.md R74, R76 to R81): under the row's mask the word is the row's match, whatever the operands. -/

namespace Sys2Proof.Laws.Opcode

/-- The word of `i` fits its row of the opcode table. -/
def Statement (i : Instr) : Prop := encode i &&& (opcodeRow i).1 = (opcodeRow i).2

theorem and_ones4 (k : BitVec 4) : k &&& 0xF#4 = k := BitVec.and_allOnes

theorem and_ones8 (b : Byte) : b &&& 0xFF#8 = b := BitVec.and_allOnes

theorem wordNnn_and_kind (k : BitVec 4) (nnn : BitVec 12) : wordNnn k nnn &&& 0xF000#16 = wordNnn k 0#12 := by
  have h : (0xF000#16 : Word) = (0xF#4 ++ 0x000#12 : BitVec (4 + 12)) := by decide
  rw [h]; unfold wordNnn; rw [BitVec.and_append]
  simp [and_ones4]

theorem wordXnn_and_kind (k : BitVec 4) (x : Reg) (nn : Byte) : wordXnn k x nn &&& 0xF000#16 = wordXnn k 0 0#8 := by
  have h : (0xF000#16 : Word) = (0xF#4 ++ 0x0#4 ++ 0x00#8 : BitVec (4 + 4 + 8)) := by decide
  rw [h]; unfold wordXnn; rw [BitVec.and_append, BitVec.and_append]
  simp [and_ones4]

theorem wordXnn_and_low (k : BitVec 4) (x : Reg) (nn : Byte) : wordXnn k x nn &&& 0xF0FF#16 = wordXnn k 0 nn := by
  have h : (0xF0FF#16 : Word) = (0xF#4 ++ 0x0#4 ++ 0xFF#8 : BitVec (4 + 4 + 8)) := by decide
  rw [h]; unfold wordXnn; rw [BitVec.and_append, BitVec.and_append]
  simp [and_ones4, and_ones8]

theorem wordXyn_and_low (k : BitVec 4) (x y : Reg) (n : BitVec 4) :
    wordXyn k x y n &&& 0xF00F#16 = wordXyn k 0 0 n := by
  have h : (0xF00F#16 : Word) = (0xF#4 ++ 0x0#4 ++ 0x0#4 ++ 0xF#4 : BitVec (4 + 4 + 4 + 4)) := by decide
  rw [h]; unfold wordXyn; rw [BitVec.and_append, BitVec.and_append, BitVec.and_append]
  simp [and_ones4]

theorem wordXyn_and_kind (k : BitVec 4) (x y : Reg) (n : BitVec 4) :
    wordXyn k x y n &&& 0xF000#16 = wordXyn k 0 0 0#4 := by
  have h : (0xF000#16 : Word) = (0xF#4 ++ 0x0#4 ++ 0x0#4 ++ 0x0#4 : BitVec (4 + 4 + 4 + 4)) := by decide
  rw [h]; unfold wordXyn; rw [BitVec.and_append, BitVec.and_append, BitVec.and_append]
  simp [and_ones4]

theorem sys (nnn : BitVec 12) : Statement (.sys nnn) := (wordNnn_and_kind _ _).trans rfl
theorem cls : Statement .cls := rfl
theorem ret : Statement .ret := rfl
theorem jp (nnn : BitVec 12) : Statement (.jp nnn) := (wordNnn_and_kind _ _).trans rfl
theorem call (nnn : BitVec 12) : Statement (.call nnn) := (wordNnn_and_kind _ _).trans rfl
theorem seImm (x : Reg) (nn : Byte) : Statement (.seImm x nn) := (wordXnn_and_kind _ _ _).trans rfl
theorem sneImm (x : Reg) (nn : Byte) : Statement (.sneImm x nn) := (wordXnn_and_kind _ _ _).trans rfl
theorem seReg (x y : Reg) : Statement (.seReg x y) := (wordXyn_and_low _ _ _ _).trans rfl
theorem ldImm (x : Reg) (nn : Byte) : Statement (.ldImm x nn) := (wordXnn_and_kind _ _ _).trans rfl
theorem addImm (x : Reg) (nn : Byte) : Statement (.addImm x nn) := (wordXnn_and_kind _ _ _).trans rfl
theorem ldReg (x y : Reg) : Statement (.ldReg x y) := (wordXyn_and_low _ _ _ _).trans rfl
theorem orReg (x y : Reg) : Statement (.orReg x y) := (wordXyn_and_low _ _ _ _).trans rfl
theorem andReg (x y : Reg) : Statement (.andReg x y) := (wordXyn_and_low _ _ _ _).trans rfl
theorem xorReg (x y : Reg) : Statement (.xorReg x y) := (wordXyn_and_low _ _ _ _).trans rfl
theorem addReg (x y : Reg) : Statement (.addReg x y) := (wordXyn_and_low _ _ _ _).trans rfl
theorem subReg (x y : Reg) : Statement (.subReg x y) := (wordXyn_and_low _ _ _ _).trans rfl
theorem shr (x y : Reg) : Statement (.shr x y) := (wordXyn_and_low _ _ _ _).trans rfl
theorem subnReg (x y : Reg) : Statement (.subnReg x y) := (wordXyn_and_low _ _ _ _).trans rfl
theorem shl (x y : Reg) : Statement (.shl x y) := (wordXyn_and_low _ _ _ _).trans rfl
theorem sneReg (x y : Reg) : Statement (.sneReg x y) := (wordXyn_and_low _ _ _ _).trans rfl
theorem ldI (nnn : BitVec 12) : Statement (.ldI nnn) := (wordNnn_and_kind _ _).trans rfl
theorem jpV0 (nnn : BitVec 12) : Statement (.jpV0 nnn) := (wordNnn_and_kind _ _).trans rfl
theorem rnd (x : Reg) (nn : Byte) : Statement (.rnd x nn) := (wordXnn_and_kind _ _ _).trans rfl
theorem drw (x y : Reg) (n : BitVec 4) : Statement (.drw x y n) := (wordXyn_and_kind _ _ _ _).trans rfl
theorem skp (x : Reg) : Statement (.skp x) := (wordXnn_and_low _ _ _).trans rfl
theorem sknp (x : Reg) : Statement (.sknp x) := (wordXnn_and_low _ _ _).trans rfl
theorem ldVxDt (x : Reg) : Statement (.ldVxDt x) := (wordXnn_and_low _ _ _).trans rfl
theorem ldVxK (x : Reg) : Statement (.ldVxK x) := (wordXnn_and_low _ _ _).trans rfl
theorem ldDtVx (x : Reg) : Statement (.ldDtVx x) := (wordXnn_and_low _ _ _).trans rfl
theorem ldStVx (x : Reg) : Statement (.ldStVx x) := (wordXnn_and_low _ _ _).trans rfl
theorem addI (x : Reg) : Statement (.addI x) := (wordXnn_and_low _ _ _).trans rfl
theorem ldF (x : Reg) : Statement (.ldF x) := (wordXnn_and_low _ _ _).trans rfl
theorem ldB (x : Reg) : Statement (.ldB x) := (wordXnn_and_low _ _ _).trans rfl
theorem stRegs (x : Reg) : Statement (.stRegs x) := (wordXnn_and_low _ _ _).trans rfl
theorem ldRegs (x : Reg) : Statement (.ldRegs x) := (wordXnn_and_low _ _ _).trans rfl

end Sys2Proof.Laws.Opcode
end

