-- ==== Sys2Proof/Laws/Step.lean ====
section
/-! SUPPORT. What one step can do, said once (40_control.md R90): every invariant is derived from this. -/

namespace Sys2Proof.Machine

variable (s t : State)

/-- A step that answers a next state waited, faulted at the fetch, ran an instruction, or passed an unrecognized
word; in each case no fault record was set before. -/
theorem step_next_cases (h : step s = .next t) :
    s.fault = none ∧
      ((s.awaiting ≠ none ∧ t = s) ∨
       (s.awaiting = none ∧ s.fetch = .error .fetchOutOfRange ∧ t = s.raiseFatal .fetchOutOfRange) ∨
       (∃ w i, s.awaiting = none ∧ s.fetch = .ok w ∧ decodeWord w = .instr i ∧ exec i s = .next t) ∨
       (∃ w w', s.awaiting = none ∧ s.fetch = .ok w ∧ decodeWord w = .unrecognized w' ∧ t = s.passUnknown)) := by
  unfold step stepState at h
  cases hf : s.fault with
  | some p => rw [hf] at h; cases h
  | none =>
    rw [hf] at h
    refine ⟨rfl, ?_⟩
    simp only [cycle, hf] at h
    cases ha : s.awaiting with
    | some r =>
      simp only [ha, Host.Outcome.next.injEq] at h
      exact .inl ⟨by simp, h.symm⟩
    | none =>
      simp only [ha] at h
      refine .inr ?_
      by_cases hr : s.pc.toNat + 2 ≤ 4096
      · have hw := s.fetch_ok hr
        rw [hw] at h
        simp only [runWord] at h
        cases hd : decodeWord (wordOfBytes (s.mem.read s.pc.toNat) (s.mem.read (s.pc.toNat + 1))) with
        | instr i =>
          simp only [hd, runInstr] at h
          refine .inr (.inl ⟨_, i, rfl, hw, hd, ?_⟩)
          cases he : exec i s with
          | next u => simp only [he, Host.Outcome.next.injEq] at h; rw [h]
          | fault r => simp only [he] at h; cases h
          | refused r => simp only [he] at h; cases h
        | unrecognized w' =>
          simp only [hd, Host.Outcome.next.injEq] at h
          exact .inr (.inr ⟨_, w', rfl, hw, hd, h.symm⟩)
      · have hw := s.fetch_range (by omega)
        rw [hw] at h
        simp only [Host.Outcome.next.injEq] at h
        exact .inl ⟨rfl, hw, h.symm⟩

end Sys2Proof.Machine
end

