-- ==== Sys2Proof/Tests/Slice0.lean ====
section
/-! SUPPORT. Tests of the model against the spec: the WellFormed smoke test, a word of every row of the opcode table
written out bit by bit from 30_encoding.md, one step on small states with the results 95_test_vectors.md gives (the
vector's id stands with each test), and for every obligation with hypotheses a state that meets them. -/

namespace Sys2Proof.Tests

open Sys2Proof Sys2Proof.Machine

/-! ## Building small states -/

/-- The state after reset with the listed registers holding the listed values. -/
def regs (l : List (Reg × Byte)) : State := l.foldl (fun t p => t.setReg p.1 p.2) State.reset

/-- The machine after reset with one changed parameter. -/
def under (c : Config) (s : State) : State := { s with cfg := c }

/-- `s` with the bytes `bs` of memory at `a`. -/
def bytes (a : Nat) (bs : List Byte) (s : State) : State := { s with mem := s.mem.writeBytes a bs }

/-- One step of the word `w`, placed at the `pc` of `s`, answers a next state with the property `p`. -/
def runs (w : Nat) (s : State) (p : State → Bool) : Bool :=
  match step (s.withFetchWord 16 w) with
  | .next t => p t
  | .fault _ => false
  | .refused _ => false

/-- The state `exec` answers, for the statements about two instructions in a row. -/
def afterExec (i : Instr) (s : State) : State :=
  match exec i s with
  | .next t => t
  | .fault _ => s
  | .refused _ => s

/-! ## WellFormed: the ill-formed terms are refused -/

theorem test_wellFormed_refuses_cls_word : Instr.wellFormed (.sys 0x0E0#12) = false := by decide

theorem test_wellFormed_refuses_ret_word : Instr.wellFormed (.sys 0x0EE#12) = false := by decide

/-! ## Decoding: a word of every row, bit by bit (30_encoding.md R74, R76 to R81; opcode_table.json) -/

theorem test_decode_kind0 :
    decodeWord 0b0000_0001_0010_0011#16 = .instr (.sys 0x123#12) ∧
    decodeWord 0b0000_0000_1110_0000#16 = .instr .cls ∧
    decodeWord 0b0000_0000_1110_1110#16 = .instr .ret := by decide

theorem test_decode_control :
    decodeWord 0b0001_1010_1011_1100#16 = .instr (.jp 0xABC#12) ∧
    decodeWord 0b0010_0011_0000_0001#16 = .instr (.call 0x301#12) ∧
    decodeWord 0b1011_0101_0000_0010#16 = .instr (.jpV0 0x502#12) := by decide

theorem test_decode_skips :
    decodeWord 0b0011_0011_0100_0010#16 = .instr (.seImm 3 0x42#8) ∧
    decodeWord 0b0100_0011_0100_0010#16 = .instr (.sneImm 3 0x42#8) ∧
    decodeWord 0b0101_0001_0010_0000#16 = .instr (.seReg 1 2) ∧
    decodeWord 0b1001_0001_0010_0000#16 = .instr (.sneReg 1 2) := by decide

theorem test_decode_immediates :
    decodeWord 0b0110_0101_1000_0001#16 = .instr (.ldImm 5 0x81#8) ∧
    decodeWord 0b0111_0101_1000_0001#16 = .instr (.addImm 5 0x81#8) ∧
    decodeWord 0b1100_0001_0000_1111#16 = .instr (.rnd 1 0x0F#8) := by decide

theorem test_decode_logic :
    decodeWord 0b1000_1010_0011_0000#16 = .instr (.ldReg 0xA 3) ∧
    decodeWord 0b1000_1010_0011_0001#16 = .instr (.orReg 0xA 3) ∧
    decodeWord 0b1000_1010_0011_0010#16 = .instr (.andReg 0xA 3) ∧
    decodeWord 0b1000_1010_0011_0011#16 = .instr (.xorReg 0xA 3) := by decide

theorem test_decode_arithmetic :
    decodeWord 0b1000_1010_0011_0100#16 = .instr (.addReg 0xA 3) ∧
    decodeWord 0b1000_1010_0011_0101#16 = .instr (.subReg 0xA 3) ∧
    decodeWord 0b1000_1010_0011_0110#16 = .instr (.shr 0xA 3) ∧
    decodeWord 0b1000_1010_0011_0111#16 = .instr (.subnReg 0xA 3) ∧
    decodeWord 0b1000_1010_0011_1110#16 = .instr (.shl 0xA 3) := by decide

theorem test_decode_index_memory :
    decodeWord 0b1010_0010_1111_0000#16 = .instr (.ldI 0x2F0#12) ∧
    decodeWord 0b1111_0010_0001_1110#16 = .instr (.addI 2) ∧
    decodeWord 0b1111_0011_0010_1001#16 = .instr (.ldF 3) ∧
    decodeWord 0b1111_0100_0011_0011#16 = .instr (.ldB 4) ∧
    decodeWord 0b1111_1010_0101_0101#16 = .instr (.stRegs 0xA) ∧
    decodeWord 0b1111_1010_0110_0101#16 = .instr (.ldRegs 0xA) := by decide

theorem test_decode_display :
    decodeWord 0b1101_0001_0010_0101#16 = .instr (.drw 1 2 0x5#4) := by decide

theorem test_decode_timers_keys :
    decodeWord 0b1110_0010_1001_1110#16 = .instr (.skp 2) ∧
    decodeWord 0b1110_0010_1010_0001#16 = .instr (.sknp 2) ∧
    decodeWord 0b1111_0101_0000_0111#16 = .instr (.ldVxDt 5) ∧
    decodeWord 0b1111_0101_0000_1010#16 = .instr (.ldVxK 5) ∧
    decodeWord 0b1111_0101_0001_0101#16 = .instr (.ldDtVx 5) ∧
    decodeWord 0b1111_0101_0001_1000#16 = .instr (.ldStVx 5) := by decide

theorem test_decode_unrecognized :
    decodeWord 0b0101_0001_0010_0001#16 = .unrecognized 0x5121#16 ∧
    decodeWord 0b1001_0001_0010_1110#16 = .unrecognized 0x912E#16 ∧
    decodeWord 0b1000_0001_0010_1111#16 = .unrecognized 0x812F#16 ∧
    decodeWord 0b1110_0001_1001_1111#16 = .unrecognized 0xE19F#16 ∧
    decodeWord 0b1111_0001_1010_0001#16 = .unrecognized 0xF1A1#16 := by decide

/-- V1, V4 of 95_test_vectors.md. -/
theorem test_fields :
    kindOf 0xD125#16 = 0xD#4 ∧ xOf 0xD125#16 = 1 ∧ yOf 0xD125#16 = 2 ∧ nOf 0xD125#16 = 0x5#4 ∧
    nnOf 0x8AB6#16 = 0xB6#8 ∧ nnnOf 0x8AB6#16 = 0xAB6#12 := by decide

theorem test_decode_too_short : decode [0x60#8] = .error (.truncated 1) := by decide

theorem test_decodeTableWord :
    decodeTableWord 16 0x8126 = some (.shr 1 2) ∧ decodeTableWord 16 0x5121 = none := by decide

theorem test_encode : encode (.drw 1 2 0x5#4) = 0xD125#16 ∧ encodeBytes (.ldImm 0 0x0A#8) = [0x60#8, 0x0A#8] := by decide

/-! ## Control transfer -/

/-- C24. -/
theorem test_sys : runs 0x0123 State.reset (fun t => t == { State.reset.withFetchWord 16 0x0123 with pc := 0x202#16 })
    = true := by decide

/-- C1. -/
theorem test_jp : runs 0x1ABC State.reset (fun t => t.pc == 0xABC#16) = true := by decide

/-- C4. -/
theorem test_call : runs 0x2300 State.reset (fun t => t.pc == 0x300#16 && t.stack == [0x200#16]) = true := by decide

/-- C7. -/
theorem test_call_full :
    runs 0x2400 { State.reset with pc := 0x300#16, stack := List.replicate 16 0x200#16 } (fun t =>
      t.fault == some (.stackOverflow, 0x300#16) && t.stack.length == 16 && t.pc == 0x300#16) = true := by decide

/-- C5. -/
theorem test_ret :
    runs 0x00EE { State.reset with pc := 0x300#16, stack := [0x234#16] } (fun t =>
      t.pc == 0x236#16 && t.stack == []) = true := by decide

/-- C6. -/
theorem test_ret_empty :
    runs 0x00EE { State.reset with pc := 0x300#16 } (fun t =>
      t.fault == some (.stackUnderflow, 0x300#16) && t.pc == 0x300#16) = true := by decide

/-- C11: the offset is `V0`, not `V5`. -/
theorem test_jpV0 : runs 0xB500 (regs [(0, 0x01#8), (5, 0x40#8)]) (fun t => t.pc == 0x501#16) = true := by decide

/-- C10: no mask to 12 bits. -/
theorem test_jpV0_past_end : runs 0xBFFF (regs [(0, 0xFF#8)]) (fun t => t.pc == 0x10FE#16) = true := by decide

/-- C12, C13. -/
theorem test_seImm :
    runs 0x3342 (regs [(3, 0x42#8)]) (fun t => t.pc == 0x204#16) = true ∧
    runs 0x3342 (regs [(3, 0x41#8)]) (fun t => t.pc == 0x202#16) = true := by decide

/-- C14, C15. -/
theorem test_sneImm :
    runs 0x4342 (regs [(3, 0x41#8)]) (fun t => t.pc == 0x204#16) = true ∧
    runs 0x4342 (regs [(3, 0x42#8)]) (fun t => t.pc == 0x202#16) = true := by decide

/-- C16, C17. -/
theorem test_seReg :
    runs 0x5120 (regs [(1, 0x07#8), (2, 0x07#8)]) (fun t => t.pc == 0x204#16) = true ∧
    runs 0x5120 (regs [(1, 0x07#8), (2, 0x08#8)]) (fun t => t.pc == 0x202#16) = true := by decide

/-- C19, C20. -/
theorem test_sneReg :
    runs 0x9120 (regs [(1, 0x07#8), (2, 0x08#8)]) (fun t => t.pc == 0x204#16) = true ∧
    runs 0x9110 (regs [(1, 0x07#8)]) (fun t => t.pc == 0x202#16) = true := by decide

/-! ## Registers and arithmetic -/

/-- A1. -/
theorem test_ldImm : runs 0x6F42 State.reset (fun t => t.reg 0xF == 0x42#8 && t.pc == 0x202#16) = true := by decide

/-- A2: no carry flag. -/
theorem test_addImm_wraps :
    runs 0x7001 (regs [(0, 0xFF#8), (0xF, 0x55#8)]) (fun t => t.reg 0 == 0x00#8 && t.reg 0xF == 0x55#8) = true := by
  decide

/-- A4. -/
theorem test_ldReg : runs 0x8120 (regs [(2, 0x33#8)]) (fun t => t.reg 1 == 0x33#8 && t.reg 2 == 0x33#8) = true := by
  decide

/-- A5. -/
theorem test_orReg :
    runs 0x8121 (regs [(1, 0x0C#8), (2, 0x0A#8), (0xF, 0x01#8)]) (fun t =>
      t.reg 1 == 0x0E#8 && t.reg 0xF == 0x00#8) = true := by decide

/-- A6 and A10. -/
theorem test_orReg_flag :
    runs 0x8121 (under { defaultConfig with logicVfReset := false } (regs [(1, 0x0C#8), (2, 0x0A#8), (0xF, 0x01#8)]))
      (fun t => t.reg 1 == 0x0E#8 && t.reg 0xF == 0x01#8) = true ∧
    runs 0x8F11 (regs [(0xF, 0x0C#8), (1, 0x0A#8)]) (fun t => t.reg 0xF == 0x00#8) = true := by decide

/-- A7. -/
theorem test_andReg : runs 0x8122 (regs [(1, 0x0C#8), (2, 0x0A#8)]) (fun t => t.reg 1 == 0x08#8) = true := by decide

/-- A8. -/
theorem test_xorReg : runs 0x8123 (regs [(1, 0x0C#8), (2, 0x0A#8)]) (fun t => t.reg 1 == 0x06#8) = true := by decide

/-- A11. -/
theorem test_addReg :
    runs 0x8124 (regs [(1, 0xFF#8), (2, 0x02#8)]) (fun t => t.reg 1 == 0x01#8 && t.reg 0xF == 0x01#8) = true := by
  decide

/-- A15: the flag is written last. -/
theorem test_addReg_flag_stays :
    runs 0x8F14 (regs [(0xF, 0xFF#8), (1, 0x01#8)]) (fun t => t.reg 0xF == 0x01#8) = true := by decide

/-- A18. -/
theorem test_subReg_borrow :
    runs 0x8125 (regs [(1, 0x02#8), (2, 0x05#8)]) (fun t => t.reg 1 == 0xFD#8 && t.reg 0xF == 0x00#8) = true := by
  decide

/-- A19: equal operands are no borrow. -/
theorem test_subReg_equal :
    runs 0x8115 (regs [(1, 0x07#8)]) (fun t => t.reg 1 == 0x00#8 && t.reg 0xF == 0x01#8) = true := by decide

/-- A22. -/
theorem test_shr_vy :
    runs 0x8126 (regs [(1, 0xFF#8), (2, 0x05#8)]) (fun t =>
      t.reg 1 == 0x02#8 && t.reg 0xF == 0x01#8 && t.reg 2 == 0x05#8) = true := by decide

/-- A23. -/
theorem test_shr_vx :
    runs 0x8126 (under { defaultConfig with shiftSource := .vx } (regs [(1, 0xFF#8), (2, 0x05#8)])) (fun t =>
      t.reg 1 == 0x7F#8 && t.reg 0xF == 0x01#8) = true := by decide

/-- A27. -/
theorem test_subnReg :
    runs 0x8127 (regs [(1, 0x02#8), (2, 0x05#8)]) (fun t => t.reg 1 == 0x03#8 && t.reg 0xF == 0x01#8) = true := by
  decide

/-- A30. -/
theorem test_shl_vy :
    runs 0x812E (regs [(2, 0x81#8)]) (fun t => t.reg 1 == 0x02#8 && t.reg 0xF == 0x01#8) = true := by decide

/-- A32. -/
theorem test_shl_vx :
    runs 0x812E (under { defaultConfig with shiftSource := .vx } (regs [(1, 0x81#8), (2, 0x00#8)])) (fun t =>
      t.reg 1 == 0x02#8 && t.reg 0xF == 0x01#8) = true := by decide

/-- A35: under the mask 0x00 the result is 0x00 whatever the draw. -/
theorem test_rnd_mask_zero (r : Byte) : (State.reset.writeRandom 1 0x00#8 r).reg 1 = 0x00#8 := by
  simp [State.writeRandom, State.epilogue, State.jump, State.setReg, State.reg]

/-- A34 with the draw 0xB7. -/
theorem test_rnd_draw : (State.reset.writeRandom 1 0x0F#8 0xB7#8).reg 1 = 0x07#8 := by decide

/-! ## Index and memory transfer -/

/-- M1. -/
theorem test_ldI : runs 0xA2F0 State.reset (fun t => t.I == 0x2F0#16) = true := by decide

/-- M4 and M5: no 12-bit wrap, a 16-bit wrap. -/
theorem test_addI :
    runs 0xF01E { regs [(0, 0x01#8)] with I := 0xFFF#16 } (fun t => t.I == 0x1000#16) = true ∧
    runs 0xF01E { regs [(0, 0x01#8)] with I := 0xFFFF#16 } (fun t => t.I == 0x0000#16) = true := by decide

/-- M8: the upper nibble is ignored. -/
theorem test_ldF : runs 0xF329 (regs [(3, 0x1A#8)]) (fun t => t.I == 0x032#16) = true := by decide

/-- M9. -/
theorem test_ldB :
    runs 0xF033 { regs [(0, 0x9C#8)] with I := 0x300#16 } (fun t =>
      t.mem.readBytes 0x300 3 == [0x01#8, 0x05#8, 0x06#8] && t.I == 0x300#16 && t.mem.wf) = true := by decide

/-- M13 and M14. -/
theorem test_ldB_faults :
    runs 0xF033 { State.reset with I := 0xFFE#16 } (fun t => t.fault == some (.memoryOutOfRange, 0x200#16)) = true ∧
    runs 0xF033 { State.reset with I := 0x100#16 } (fun t => t.fault == some (.reservedWrite, 0x200#16)) = true := by
  decide

/-- M16. -/
theorem test_stRegs :
    runs 0xF255 { regs [(0, 0x11#8), (1, 0x22#8), (2, 0x33#8)] with I := 0x300#16 } (fun t =>
      t.mem.readBytes 0x300 3 == [0x11#8, 0x22#8, 0x33#8] && t.I == 0x303#16) = true := by decide

/-- M19 and M17. -/
theorem test_stRegs_edges :
    runs 0xFF55 { State.reset with I := 0xFF1#16 } (fun t =>
      t.fault == some (.memoryOutOfRange, 0x200#16) && t.I == 0xFF1#16) = true ∧
    runs 0xF255 (under { defaultConfig with loadStoreI := .keep } { State.reset with I := 0x300#16 }) (fun t =>
      t.I == 0x300#16) = true := by decide

/-- M22. -/
theorem test_ldRegs :
    runs 0xF265 (bytes 0x300 [0x02#8, 0x05#8, 0x04#8] { State.reset with I := 0x300#16 }) (fun t =>
      t.reg 0 == 0x02#8 && t.reg 1 == 0x05#8 && t.reg 2 == 0x04#8 && t.I == 0x303#16) = true := by decide

/-- M23 and M25: the first font byte, and past the end. -/
theorem test_ldRegs_edges :
    runs 0xF065 { State.reset with I := 0x000#16 } (fun t => t.reg 0 == 0xF0#8 && t.I == 0x001#16) = true ∧
    runs 0xF065 { State.reset with I := 0x1000#16 } (fun t => t.fault == some (.memoryOutOfRange, 0x200#16)) = true := by
  decide

/-! ## Display -/

/-- D1. -/
theorem test_cls : runs 0x00E0 { State.reset with FB := Vector.replicate 32 (BitVec.allOnes 64) } (fun t =>
    t.FB == Frame.blank && t.pc == 0x202#16) = true := by decide

/-- D4: both coordinates wrap. -/
theorem test_drw_wraps :
    runs 0xD012 (bytes 0x300 [0xC0#8, 0xC0#8] { regs [(0, 63#8), (1, 31#8)] with I := 0x300#16 }) (fun t =>
      t.FB == ((((Frame.blank.flip 31 63).flip 31 0).flip 0 63).flip 0 0) && t.reg 0xF == 0x00#8) = true := by decide

/-- D6: a collision. -/
theorem test_drw_collision :
    runs 0xD011 (bytes 0x300 [0xC0#8] { State.reset with I := 0x300#16, FB := Frame.blank.flip 0 0 }) (fun t =>
      t.FB == Frame.blank.flip 0 1 && t.reg 0xF == 0x01#8) = true := by decide

/-! ## Timers, keys, key wait -/

/-- T1. -/
theorem test_ldVxDt : runs 0xF507 { State.reset with DT := 0x3C#8 } (fun t => t.reg 5 == 0x3C#8) = true := by decide

/-- T2. -/
theorem test_ldDtVx : runs 0xF515 (regs [(5, 0x3C#8)]) (fun t => t.DT == 0x3C#8 && t.ST == 0x00#8) = true := by decide

/-- T3. -/
theorem test_ldStVx : runs 0xF518 (regs [(5, 0x02#8)]) (fun t => t.ST == 0x02#8 && soundActive t) = true := by decide

/-- K2 and K3: the upper nibble is ignored. -/
theorem test_skp :
    runs 0xE29E ((regs [(2, 0x17#8)]).setKey 7 true) (fun t => t.pc == 0x204#16) = true ∧
    runs 0xE29E (regs [(2, 0x07#8)]) (fun t => t.pc == 0x202#16) = true := by decide

/-- K4. -/
theorem test_sknp : runs 0xE2A1 (regs [(2, 0x07#8)]) (fun t => t.pc == 0x204#16) = true := by decide

/-- K5. -/
theorem test_ldVxK : runs 0xF30A State.reset (fun t => t.awaiting == some 3 && t.pc == 0x202#16) = true := by decide

/-- K9: a press ends the wait. -/
theorem test_keyEvent :
    keyEvent 7 true { State.reset with awaiting := some 3, pc := 0x202#16 } =
      .next (({ State.reset with pc := 0x202#16 }.setKey 7 true).setReg 3 0x07#8) := rfl

/-- K13. -/
theorem test_keyEvent_refused : keyEvent 16 true State.reset = .refused (.keyCodeOutOfRange 16) := rfl

/-- T6 and one tick of T4. -/
theorem test_tick :
    tickTimers State.reset = State.reset ∧
    tickTimers { State.reset with DT := 100#8 } = { State.reset with DT := 99#8 } := by decide

/-! ## The step, construction, memory -/

/-- U1 and U2. -/
theorem test_unrecognized :
    cycle (State.reset.withFetchWord 16 0x5121) =
      .next ({ State.reset.withFetchWord 16 0x5121 with pc := 0x202#16 }, .unrecognized 0x5121#16) ∧
    cycle ((under { defaultConfig with unknownPc := .hold } State.reset).withFetchWord 16 0x5121) =
      .next ((under { defaultConfig with unknownPc := .hold } State.reset).withFetchWord 16 0x5121,
        .unrecognized 0x5121#16) := ⟨rfl, rfl⟩

/-- F1 and F3. -/
theorem test_fetch_faults :
    cycle { State.reset with pc := 0xFFF#16 } =
      .next ({ State.reset with pc := 0xFFF#16, fault := some (.fetchOutOfRange, 0xFFF#16) }, .fatal .fetchOutOfRange) ∧
    step { State.reset with pc := 0xFFF#16, fault := some (.fetchOutOfRange, 0xFFF#16) } =
      .fault (.fatal .fetchOutOfRange 0xFFF#16) := ⟨rfl, rfl⟩

/-- F6: the fault check comes before the wait. -/
theorem test_fault_before_wait :
    step { State.reset with fault := some (.stackUnderflow, 0x300#16), awaiting := some 2 } =
      .fault (.fatal .stackUnderflow 0x300#16) := rfl

/-- R1, R2: the bytes of a small ROM and of the font; a ROM that is too short. -/
theorem test_construct :
    (constructMem defaultFontVec [0x60#8, 0x0A#8]).readBytes 0x200 3 = [0x60#8, 0x0A#8, 0x00#8] ∧
    (constructMem defaultFontVec [0x60#8, 0x0A#8]).readBytes 0x04B 6 =
      [0xF0#8, 0x80#8, 0xF0#8, 0x80#8, 0x80#8, 0x00#8] ∧
    construct defaultConfig defaultFontVec [0x60#8] = .error .romSize := by decide +kernel

/-- The state after reset is what `construct` leaves with nothing but zero bytes in the ROM (log entry 4). -/
theorem test_reset_is_constructed :
    construct defaultConfig defaultFontVec [0x00#8, 0x00#8] = .ok State.reset := by decide +kernel

/-- 70_reset_and_hazards.md R252: glyph 0 and glyph B. -/
theorem test_font :
    State.reset.mem.readBytes 0x000 5 = [0xF0#8, 0x90#8, 0x90#8, 0x90#8, 0xF0#8] ∧
    State.reset.mem.readBytes 0x037 5 = [0xE0#8, 0x90#8, 0xE0#8, 0x90#8, 0xE0#8] := by decide

/-- A write of what an address reads as anyway leaves no cell, and the form is checked. -/
theorem test_memory_form :
    Memory.write (Memory.write [] 0x300 0x12#8) 0x300 0x00#8 = [] ∧
    Memory.wf [(0x300, 0x00#8)] = false ∧ Memory.wf [(0x301, 0x01#8), (0x300, 0x01#8)] = false ∧
    Memory.wf [(0x1000, 0x01#8)] = false := by decide

/-! ## Witnesses: for every obligation with hypotheses, a state and operands that meet them all, clause by clause -/

/-- A machine about to run `w` at the highest fetchable `pc`. -/
def atTop (w : Nat) : State := { State.reset with pc := 0xFFE#16 }.withFetchWord 16 w

/-- The outcome is a next state. -/
def goesOn (r : Host.Outcome State Fault Refusal) : Bool :=
  match r with
  | .next _ => true
  | .fault _ => false
  | .refused _ => false

theorem next_of_goesOn (r : Host.Outcome State Fault Refusal) (h : goesOn r = true) : ∃ t : State, r = .next t := by
  cases r with
  | next t => exact ⟨t, rfl⟩
  | fault _ => cases h
  | refused _ => cases h

/-- The byte 0x80 at `I` = 0x300: a sprite of one lit pixel. -/
def dot : State := bytes 0x300 [0x80#8] { State.reset with I := 0x300#16 }

theorem witness_StepRunsDecodedInstruction :
    ((atTop 0x6042).Running ∧ (atTop 0x6042).pc.toNat ≤ 4094 ∧
      decodeWord ((atTop 0x6042).mem.read (atTop 0x6042).pc.toNat ++
        (atTop 0x6042).mem.read ((atTop 0x6042).pc.toNat + 1)) = .instr (.ldImm 0 0x42#8) ∧
      ∃ t : State, exec (.ldImm 0 0x42#8) (atTop 0x6042) = .next t ∧ t.fault = none) ∧
    ((atTop 0x00EE).Running ∧
      decodeWord ((atTop 0x00EE).mem.read (atTop 0x00EE).pc.toNat ++
        (atTop 0x00EE).mem.read ((atTop 0x00EE).pc.toNat + 1)) = .instr .ret ∧
      ∃ t : State, exec .ret (atTop 0x00EE) = .next t ∧ t.fault = some (.stackUnderflow, 0xFFE#16)) :=
  ⟨⟨⟨rfl, rfl⟩, by decide, by decide, _, rfl, rfl⟩, ⟨rfl, rfl⟩, by decide, _, rfl, rfl⟩

theorem witness_FetchReadsTwoBytesBigEndian :
    ({ State.reset with pc := 0xFFF#16 }.Running ∧ 4094 < ({ State.reset with pc := 0xFFF#16 } : State).pc.toNat) ∧
    ({ State.reset with pc := 0xFFE#16 }.Running ∧ ({ State.reset with pc := 0xFFE#16 } : State).pc.toNat ≤ 4094) :=
  ⟨⟨⟨rfl, rfl⟩, by decide⟩, ⟨rfl, rfl⟩, by decide⟩

/-- Out of the fetch's range, as in K14. -/
theorem witness_WaitingStepChangesNothing :
    ({ State.reset with awaiting := some 0, pc := 0x1000#16 } : State).fault = none ∧
    ({ State.reset with awaiting := some 0, pc := 0x1000#16 } : State).awaiting = some 0 := ⟨rfl, rfl⟩

theorem witness_FaultedMachineChangesNothing :
    ({ State.reset with fault := some (.stackOverflow, 0x300#16), awaiting := some 2 } : State).fault =
      some (.stackOverflow, 0x300#16) := rfl

theorem witness_UnrecognizedWordIsReported :
    ((atTop 0x5121).Running ∧ (atTop 0x5121).fetch = .ok 0x5121#16 ∧
      decodeWord 0x5121#16 = .unrecognized 0x5121#16 ∧ (atTop 0x5121).cfg.unknownPc = .advance) ∧
    ((under { defaultConfig with unknownPc := .hold } (atTop 0x5121)).Running ∧
      (under { defaultConfig with unknownPc := .hold } (atTop 0x5121)).fetch = .ok 0x5121#16 ∧
      (under { defaultConfig with unknownPc := .hold } (atTop 0x5121)).cfg.unknownPc = .hold) :=
  ⟨⟨⟨rfl, rfl⟩, by decide, by decide, rfl⟩, ⟨rfl, rfl⟩, by decide, rfl⟩

theorem witness_OnlyTheFaultRecordStopsTheMachine :
    State.reset.fault = none ∧ ∃ t : State, step State.reset = .next t := ⟨rfl, next_of_goesOn _ (by decide)⟩

theorem witness_FaultsExactlyAsTabled_raised :
    FaultsWith .ret State.reset .stackUnderflow ∧
    FaultsWith (.call 0x300#12) { State.reset with stack := List.replicate 16 0x200#16 } .stackOverflow ∧
    FaultsWith (.drw 0 0 0x0#4) { State.reset with I := 0x1001#16 } .memoryOutOfRange ∧
    FaultsWith (.ldB 0) { State.reset with I := 0xFFE#16 } .memoryOutOfRange ∧
    FaultsWith (.stRegs 0xF) { State.reset with I := 0xFF1#16 } .memoryOutOfRange ∧
    FaultsWith (.ldRegs 0) { State.reset with I := 0x1000#16 } .memoryOutOfRange ∧
    FaultsWith (.stRegs 0) { State.reset with I := 0x1FF#16 } .reservedWrite :=
  ⟨⟨rfl, rfl⟩, ⟨⟨_, rfl⟩, rfl⟩, .inl ⟨_, _, _, rfl, by unfold rangeFails; decide⟩,
    .inr (.inl ⟨_, rfl, by unfold rangeFails; decide⟩), .inr (.inr ⟨_, .inl rfl, by unfold rangeFails; decide⟩),
    .inr (.inr ⟨_, .inr rfl, by unfold rangeFails; decide⟩),
    ⟨_, .inr ⟨rfl, by unfold rangeFails; decide⟩⟩, by decide, rfl⟩

theorem witness_FaultsExactlyAsTabled_step :
    (∀ c : Cause, ¬ FaultsWith .cls State.reset c) ∧
    { State.reset with pc := 0xFFF#16 }.Running ∧ 4094 < ({ State.reset with pc := 0xFFF#16 } : State).pc.toNat ∧
    (atTop 0x00EE).Running ∧ (atTop 0x00EE).fetch = .ok (encode .ret) ∧ Instr.ret.wellFormed = true ∧
    FaultsWith .ret (atTop 0x00EE) .stackUnderflow := by
  refine ⟨fun c => ?_, ⟨rfl, rfl⟩, by decide, ⟨rfl, rfl⟩, by decide, rfl, rfl, rfl⟩
  cases c <;> simp [FaultsWith]

theorem witness_DecodeOfEncodeIsIdentity :
    Instr.wellFormed (.sys 0x0DF#12) = true ∧ Instr.wellFormed (.sys 0x0E1#12) = true ∧
    Instr.wellFormed (.sys 0x0EF#12) = true ∧ Instr.wellFormed (.drw 0xF 0xF 0xF#4) = true := by decide

theorem witness_EncodeOfDecodeIsIdentity : decodeWord 0xDFFF#16 = .instr (.drw 0xF 0xF 0xF#4) := by decide

theorem witness_ConstructedStateIsAsSpecified :
    (List.replicate 1 0x12#8).length < 2 ∧ 3584 < (List.replicate 3585 0x12#8).length ∧
    2 ≤ (List.replicate 2 0x12#8).length ∧ (List.replicate 3584 0x12#8).length ≤ 3584 := by
  simp only [List.length_replicate]; decide

theorem witness_ConstructedMachineMeetsInvariant :
    Config.wf { defaultConfig with stackDepth := 1 } = true ∧
    ∃ s : State, construct { defaultConfig with stackDepth := 1 } defaultFontVec [0x12#8, 0x00#8] = .ok s :=
  ⟨rfl, _, rfl⟩

/-- At the edges: a full stack of the highest return addresses, and the highest `pc`. -/
theorem witness_StepKeepsInvariant :
    State.Inv { State.reset with pc := 0x10FE#16, stack := List.replicate 16 0xFFE#16 } ∧
    ∃ t : State, step { State.reset with pc := 0x10FE#16, stack := List.replicate 16 0xFFE#16 } = .next t :=
  ⟨⟨rfl, rfl, by decide, by simp, by decide, trivial⟩, next_of_goesOn _ (by decide)⟩

theorem witness_EveryInterleavingKeepsInvariant :
    State.reset.Inv ∧ ∃ t : State, runOps [.tick, .step, .keyEvent 7 true, .keyEvent 7 false] State.reset = .next t :=
  ⟨⟨rfl, rfl, by decide, by simp [State.reset], by decide, trivial⟩, next_of_goesOn _ (by decide)⟩

theorem witness_ReservedRegionIsNeverWritten :
    (State.reset.withFetchWord 16 0xF033).cfg.lowWrite = .fault ∧
    ∃ t : State, runOps [.step, .tick] (State.reset.withFetchWord 16 0xF033) = .next t :=
  ⟨rfl, next_of_goesOn _ (by decide)⟩

theorem witness_FaultRecordIsSticky :
    ({ State.reset with fault := some (.stackOverflow, 0x300#16) } : State).fault ≠ none ∧
    ∀ op ∈ [HostOp.step, HostOp.tick, HostOp.keyEvent 15 true], op.codeOk = true := by decide

theorem witness_OnlyAPressEndsTheKeyWait :
    ({ State.reset with awaiting := some 3, DT := 0x0A#8 } : State).fault = none ∧
    (∀ op ∈ [HostOp.step, HostOp.tick, HostOp.keyEvent 7 false], op.isPress = false) ∧
    ∃ t : State, runOps [.step, .tick, .keyEvent 7 false] { State.reset with awaiting := some 3, DT := 0x0A#8 } =
      .next t := ⟨rfl, by decide, next_of_goesOn _ (by decide)⟩

theorem witness_InstructionsChangeOnlyTheirParts :
    (∃ t : State, exec (.ldB 0) { State.reset with I := 0x300#16 } = .next t) ∧
    ∃ t : State, exec (.ldB 0) { State.reset with I := 0x1FF#16 } = .next t := ⟨⟨_, rfl⟩, _, rfl⟩

theorem witness_InstructionsWriteOnlyTheirRegisters :
    (∃ t : State, exec (.addReg 1 2) State.reset = .next t) ∧ ¬ WritesReg (.addReg 1 2) State.reset 2 :=
  ⟨⟨_, rfl⟩, by unfold WritesReg; decide⟩

/-- The addresses just outside the bytes `FX33` and `FX55` store to. -/
theorem witness_InstructionsStoreOnlyTheirBytes :
    ((∃ t : State, exec (.ldB 0) State.reset = .next t) ∧ ¬ StoresTo (.ldB 0) State.reset 0x1FF ∧
      ¬ StoresTo (.ldB 0) State.reset 0x203) ∧
    (∃ t : State, exec (.stRegs 0xF) State.reset = .next t) ∧ ¬ StoresTo (.stRegs 0xF) State.reset 0x1FF ∧
      ¬ StoresTo (.stRegs 0xF) State.reset 0x210 := by
  refine ⟨⟨⟨_, rfl⟩, ?_, ?_⟩, ⟨_, rfl⟩, ?_, ?_⟩ <;> (unfold StoresTo; decide)

theorem witness_SysIsANoOperation :
    (0x0DF#12 ≠ 0x0E0#12 ∧ 0x0DF#12 ≠ 0x0EE#12) ∧ (0x0E1#12 ≠ 0x0E0#12 ∧ 0x0E1#12 ≠ 0x0EE#12) ∧
    (0x0EF#12 ≠ 0x0E0#12 ∧ 0x0EF#12 ≠ 0x0EE#12) := by decide

theorem witness_CallPushesItsAddress :
    ({ State.reset with stack := List.replicate 16 0x200#16 } : State).stack.length = State.reset.cfg.stackDepth ∧
    ({ State.reset with stack := List.replicate 15 0x200#16 } : State).stack.length ≠ State.reset.cfg.stackDepth := by
  decide

theorem witness_ReturnPopsAndAdvances :
    State.reset.stack = [] ∧
    ({ State.reset with stack := [0x300#16, 0x234#16] } : State).stack = [0x300#16] ++ [0x234#16] := ⟨rfl, rfl⟩

theorem witness_ReturnResumesAfterTheCall :
    State.reset.stack.length ≠ State.reset.cfg.stackDepth ∧
    exec (.call 0x300#12) State.reset = .next (afterExec (.call 0x300#12) State.reset) ∧
    ({ State.reset with stack := [0x200#16], I := 0x123#16 } : State).stack =
      (afterExec (.call 0x300#12) State.reset).stack := ⟨by decide, rfl, rfl⟩

/-- With x = 1, y = 2 the source is 2 under vy and 1 under vx. -/
theorem witness_ShiftsMoveTheSourceByOne :
    (∃ src : Reg, State.reset.cfg.shiftSource = .vy ∧ src = 2) ∧
    ∃ src : Reg, (under { defaultConfig with shiftSource := .vx } State.reset).cfg.shiftSource = .vx ∧ src = 1 :=
  ⟨⟨_, rfl, rfl⟩, _, rfl, rfl⟩

theorem witness_StoreDecimalDigits :
    0xFFD < ({ State.reset with I := 0xFFE#16 } : State).I.toNat ∧
    (({ State.reset with I := 0x1FF#16 } : State).I.toNat < 0x200 ∧ State.reset.cfg.lowWrite = .fault) ∧
    (({ State.reset with I := 0xFFD#16 } : State).I.toNat ≤ 0xFFD ∧
      0x200 ≤ ({ State.reset with I := 0xFFD#16 } : State).I.toNat) ∧
    (State.reset.I.toNat ≤ 0xFFD ∧ 0x200 ≤ State.reset.I.toNat) ∧
    ((under { defaultConfig with lowWrite := .allow } { State.reset with I := 0x1FF#16 }).I.toNat ≤ 0xFFD ∧
      (under { defaultConfig with lowWrite := .allow } { State.reset with I := 0x1FF#16 }).cfg.lowWrite = .allow) := by
  decide

theorem witness_StoredDigitsSpellTheRegister :
    ({ regs [(0, 0xFF#8)] with I := 0xFFD#16 } : State).fault = none ∧
    exec (.ldB 0) { regs [(0, 0xFF#8)] with I := 0xFFD#16 } =
      .next (afterExec (.ldB 0) { regs [(0, 0xFF#8)] with I := 0xFFD#16 }) ∧
    (afterExec (.ldB 0) { regs [(0, 0xFF#8)] with I := 0xFFD#16 }).fault = none := ⟨rfl, rfl, by decide⟩

theorem witness_StoreRegistersAtIndex :
    4096 < ({ State.reset with I := 0xFF1#16 } : State).I.toNat + (0xF : Reg).val + 1 ∧
    (({ State.reset with I := 0x1FF#16 } : State).I.toNat < 0x200 ∧ State.reset.cfg.lowWrite = .fault) ∧
    (({ State.reset with I := 0xFF0#16 } : State).I.toNat + (0xF : Reg).val + 1 ≤ 4096 ∧
      0x200 ≤ ({ State.reset with I := 0xFF0#16 } : State).I.toNat ∧ State.reset.cfg.loadStoreI = .advance) ∧
    (State.reset.I.toNat + (0xF : Reg).val + 1 ≤ 4096 ∧ 0x200 ≤ State.reset.I.toNat) ∧
    ((under { defaultConfig with lowWrite := .allow, loadStoreI := .keep } { State.reset with I := 0x1FF#16 }).I.toNat +
        (0xF : Reg).val + 1 ≤ 4096 ∧
      (under { defaultConfig with lowWrite := .allow, loadStoreI := .keep } State.reset).cfg.lowWrite = .allow ∧
      (under { defaultConfig with lowWrite := .allow, loadStoreI := .keep } State.reset).cfg.loadStoreI = .keep) := by
  decide

theorem witness_LoadRegistersAtIndex :
    4096 < ({ State.reset with I := 0xFF1#16 } : State).I.toNat + (0xF : Reg).val + 1 ∧
    ({ State.reset with I := 0xFF0#16 } : State).I.toNat + (0xF : Reg).val + 1 ≤ 4096 ∧
    State.reset.cfg.loadStoreI = .advance ∧
    (under { defaultConfig with loadStoreI := .keep } State.reset).cfg.loadStoreI = .keep := by decide

theorem witness_LoadRestoresStoredRegisters :
    State.reset.I.toNat + (0xF : Reg).val + 1 ≤ 4096 ∧ 0x200 ≤ State.reset.I.toNat ∧
    exec (.stRegs 0xF) State.reset = .next (afterExec (.stRegs 0xF) State.reset) ∧
    (∀ a : Nat, ({ regs [(3, 0x99#8)] with mem := (afterExec (.stRegs 0xF) State.reset).mem } : State).mem.read a =
      (afterExec (.stRegs 0xF) State.reset).mem.read a) ∧
    ({ regs [(3, 0x99#8)] with mem := (afterExec (.stRegs 0xF) State.reset).mem } : State).I = State.reset.I :=
  ⟨by decide, by decide, rfl, fun _ => rfl, rfl⟩

theorem witness_NextFetchSeesTheStore :
    { State.reset with I := 0x202#16 }.Running ∧
    ({ State.reset with I := 0x202#16 } : State).I.toNat = State.reset.pc.toNat + 2 ∧ 1 ≤ (1 : Reg).val ∧
    ({ State.reset with I := 0x202#16 } : State).I.toNat + (1 : Reg).val + 1 ≤ 4096 ∧
    0x200 ≤ ({ State.reset with I := 0x202#16 } : State).I.toNat := ⟨⟨rfl, rfl⟩, by decide⟩

theorem witness_DrawFlipsTheLitPixels_range :
    4096 < ({ State.reset with I := 0xFFE#16 } : State).I.toNat + (0x3#4).toNat ∧
    ({ State.reset with I := 0xFFE#16 } : State).I.toNat + (0x2#4).toNat ≤ 4096 := by decide

/-- A lit pixel that was on, one that was off, and a pixel that is not lit. -/
theorem witness_DrawFlipsTheLitPixels :
    (Lit dot 1 0x3F#8 0x1F#8 31 63 ∧ Frame.pixel (Frame.blank.flip 31 63) 31 63 = true) ∧
    Frame.pixel dot.FB 31 63 = false ∧ ¬ Lit dot 0 0x3F#8 0x1F#8 31 63 := by
  refine ⟨⟨⟨0, 0, by decide, by decide, by decide, by decide, by decide⟩, by decide⟩, by decide, ?_⟩
  rintro ⟨h, w, hh, -⟩
  omega

theorem witness_DrawOfNoRows :
    4096 < ({ State.reset with I := 0x1001#16 } : State).I.toNat ∧
    ({ State.reset with I := 0x1000#16 } : State).I.toNat ≤ 4096 := by decide

/-- The first draw turns a pixel on; with a sprite of clear bits it turns none on. -/
theorem witness_DrawingTwiceRestoresTheScreen :
    dot.I.toNat + (0x1#4).toNat ≤ 4096 ∧ exec (.drw 0 1 0x1#4) dot = .next (afterExec (.drw 0 1 0x1#4) dot) ∧
    (Frame.pixel dot.FB 0 0 = false ∧ Frame.pixel (afterExec (.drw 0 1 0x1#4) dot).FB 0 0 = true) ∧
    (afterExec (.drw 0 1 0x0#4) dot).FB = dot.FB := ⟨by decide, rfl, by decide, by decide⟩

theorem witness_SkipsOnKey : (0xA : Key).val = ((regs [(2, 0x1A#8)]).reg 2).toNat % 16 := by decide

theorem witness_TickDecrementsBothTimers :
    ({ State.reset with fault := some (.stackOverflow, 0x300#16) } : State).fault ≠ none ∧
    ({ State.reset with DT := 0x01#8 } : State).fault = none := by decide

theorem witness_TimersCountDownToZero :
    ({ State.reset with DT := 100#8, ST := 30#8 } : State).fault = none := rfl

theorem witness_KeyEventUpdatesTheKeypad :
    ({ State.reset with fault := some (.stackOverflow, 0x300#16) } : State).fault ≠ none ∧
    (({ State.reset with awaiting := some 0xF } : State).fault = none ∧
      ({ State.reset with awaiting := some 0xF } : State).awaiting = some 0xF) ∧
    State.reset.awaiting = none := by decide

theorem witness_KeyCodeOutOfRangeIsRefused : 15 < 16 := by decide

end Sys2Proof.Tests
end

section
/-! PROOF. The fields of an instruction word (30_encoding.md R71). `Laws/Decode` reads each field as a quotient and a
remainder of the word's value; R71's table writes them as shifts and masks. -/

namespace Sys2Proof.Proofs

open Sys2Proof

/-- A shift to the right followed by a mask of `k` ones is the quotient and remainder that the field laws state. -/
theorem shiftRight_and_mask (w s k : Nat) : (w >>> s) &&& (2 ^ k - 1) = w / 2 ^ s % 2 ^ k := by
  rw [Nat.and_two_pow_sub_one_eq_mod, Nat.shiftRight_eq_div_pow]

/-- Settles O8: the field laws give quotients and remainders, which are R71's shifts and masks. `kind` has no mask in the
table and needs none, since a word is below `2 ^ 16`. -/
theorem wordFieldsAreShiftsAndMasks : Obligations.WordFieldsAreShiftsAndMasks := by
  intro w
  refine ⟨?kind, ?x, ?y, ?n, ?nn, ?nnn⟩
  case kind =>
    have kind_fits : w.toNat / 0x1000 < 0x10 := by have := w.isLt; omega
    rw [kindOf_toNat, Nat.mod_eq_of_lt kind_fits, Nat.shiftRight_eq_div_pow]
  case x => exact (xOf_val w).trans (shiftRight_and_mask w.toNat 8 4).symm
  case y => exact (yOf_val w).trans (shiftRight_and_mask w.toNat 4 4).symm
  case n => exact (nOf_toNat w).trans (Nat.and_two_pow_sub_one_eq_mod w.toNat 4).symm
  case nn => exact (nnOf_toNat w).trans (Nat.and_two_pow_sub_one_eq_mod w.toNat 8).symm
  case nnn => exact (nnnOf_toNat w).trans (Nat.and_two_pow_sub_one_eq_mod w.toNat 12).symm

end Sys2Proof.Proofs
end

section
/-! PROOF. Rules that every instruction's proof shares: which parts of the state an update keeps (frames compose, so an
instruction's frame is put together from its updates), and how the value of a format's word is decoded. -/

namespace Sys2Proof.Proofs

open Sys2Proof Sys2Proof.Machine

/-! Frames. -/

theorem partKept_trans {p : Part} {s t u : State} (hst : p.Kept s t) (htu : p.Kept t u) : p.Kept s u := by
  cases p
  case mem | V | KEY => exact fun a => (htu a).trans (hst a)
  case FB => exact fun r c => (htu r c).trans (hst r c)
  all_goals exact Eq.trans htu hst

theorem keptBut_trans {parts : List Part} {s t u : State} (hst : KeptBut parts s t) (htu : KeptBut parts t u) :
    KeptBut parts s u :=
  fun p hp => partKept_trans (hst p hp) (htu p hp)

theorem keptBut_jump {parts : List Part} (h : .pc ∈ parts) (s : State) (target : Word) :
    KeptBut parts s (s.jump target) := by
  intro p hp
  cases p
  case pc => exact absurd h hp
  all_goals simp [Part.Kept]

theorem keptBut_epilogue {parts : List Part} (h : .pc ∈ parts) (s : State) : KeptBut parts s s.epilogue :=
  keptBut_jump h s _

theorem keptBut_skipIf {parts : List Part} (h : .pc ∈ parts) (s : State) (cond : Bool) :
    KeptBut parts s (s.skipIf cond) := by
  cases cond
  case false => exact keptBut_epilogue h s
  case true => exact keptBut_trans (keptBut_jump h s _) (keptBut_epilogue h _)

theorem keptBut_setStack {parts : List Part} (h : .stack ∈ parts) (s : State) (l : List Word) :
    KeptBut parts s (s.setStack l) := by
  intro p hp
  cases p
  case stack => exact absurd h hp
  all_goals simp [Part.Kept]

theorem keptBut_raiseFatal {parts : List Part} (h : .fault ∈ parts) (s : State) (c : Cause) :
    KeptBut parts s (s.raiseFatal c) := by
  intro p hp
  cases p
  case fault => exact absurd h hp
  all_goals simp [Part.Kept]

/-- The claims' `Aborted` is the machine's way of taking a Fatal (60_exceptions.md R220). -/
theorem raiseFatal_eq_aborted (s : State) (c : Cause) : s.raiseFatal c = Aborted s c := rfl

/-! Words by their value. -/

/-- A claim gives a word by its value, the decoder's laws speak of the format's word of that value. -/
theorem encodedAs_of_toNat {n : Nat} {w : Word} {i : Instr} (hw : w.toNat = n) (hd : decodeWord w = .instr i) :
    EncodedAs n i := by
  rw [EncodedAs, ofNat_eq_of_toNat hw, hd]

theorem wordNnn_ne_of_nnnOf_ne {k : BitVec 4} {nnn : BitVec 12} {w : Word} (h : nnn ≠ nnnOf w) :
    wordNnn k nnn ≠ w :=
  fun hw => h (by rw [← hw, nnnOf_wordNnn])

@[simp] theorem wordOfBytes_toNat (hi lo : Byte) : (wordOfBytes hi lo).toNat = 256 * hi.toNat + lo.toNat := by
  rw [wordOfBytes, BitVec.toNat_append, ← Nat.shiftLeft_add_eq_or_of_lt lo.isLt, Nat.shiftLeft_eq, Nat.mul_comm]

@[simp] theorem addrOf_toNat (nnn : BitVec 12) : (addrOf nnn).toNat = nnn.toNat :=
  BitVec.toNat_setWidth_of_le (by decide)

end Sys2Proof.Proofs
end

section
/-! PROOF. The fetch and the control transfers of 40_control.md. -/

namespace Sys2Proof.Proofs

open Sys2Proof Sys2Proof.Machine

/-! The fetch. -/

/-- A running machine's step reaches the fetch, and a fetch that fails is the whole step (R90, R91). -/
theorem step_of_fetch_error {s : State} {c : Cause} (hrun : s.Running) (hfetch : s.fetch = .error c) :
    step s = .next (s.raiseFatal c) := by
  obtain ⟨hfault, hawaiting⟩ := hrun
  simp only [step, stepState, cycle, hfault, hawaiting, hfetch]

/-- Settles O2: past 4094 the range check fails and the step is the record alone; otherwise the word is the two bytes
joined. -/
theorem fetchReadsTwoBytesBigEndian : Obligations.FetchReadsTwoBytesBigEndian := by
  intro s hrun
  constructor
  · intro hpc
    have hfetch : s.fetch = .error .fetchOutOfRange := s.fetch_range (by omega)
    exact ⟨_, step_of_fetch_error hrun hfetch, s.raiseFatal_fault _, keptBut_raiseFatal (by decide) s _⟩
  · intro hpc
    exact ⟨_, s.fetch_ok (by omega), wordOfBytes_toNat _ _⟩

/-! `0NNN` -/

theorem decodeWord_sys {nnn : BitVec 12} (hcls : nnn ≠ 0x0E0#12) (hret : nnn ≠ 0x0EE#12) :
    decodeWord (wordNnn 0x0#4 nnn) = .instr (.sys nnn) := by
  have hword : decodeWord (wordNnn 0x0#4 nnn) = decode0 (wordNnn 0x0#4 nnn) := by simp [decodeWord]
  have not_cls : wordNnn 0x0#4 nnn ≠ 0x00E0#16 := wordNnn_ne_of_nnnOf_ne hcls
  have not_ret : wordNnn 0x0#4 nnn ≠ 0x00EE#16 := wordNnn_ne_of_nnnOf_ne hret
  rw [hword, decode0, if_neg not_cls, if_neg not_ret, nnnOf_wordNnn]

/-- Settles O22: the 0 family's first two tests fail on every other word, and the instruction is the epilogue alone. -/
theorem sysIsANoOperation : Obligations.SysIsANoOperation := by
  intro nnn s
  refine ⟨fun hcls hret => ?encoding, s.epilogue, rfl, s.epilogue_pc, keptBut_epilogue (by decide) s⟩
  case encoding =>
    exact encodedAs_of_toNat (by simp [wordNnn_toNat]) (decodeWord_sys hcls hret)

/-! `2NNN` -/

theorem decodeWord_call (nnn : BitVec 12) : decodeWord (wordNnn 0x2#4 nnn) = .instr (.call nnn) := by
  simp [decodeWord]

theorem exec_call_of_full (nnn : BitVec 12) {s : State} (h : s.stack.length = s.cfg.stackDepth) :
    exec (.call nnn) s = .next (s.raiseFatal .stackOverflow) := by
  show execCall nnn s = _
  rw [execCall, s.push_eq, if_pos h]
  rfl

theorem exec_call_of_not_full (nnn : BitVec 12) {s : State} (h : s.stack.length ≠ s.cfg.stackDepth) :
    exec (.call nnn) s = .next ((s.setStack (s.stack ++ [s.pc])).jump (addrOf nnn)) := by
  show execCall nnn s = _
  rw [execCall, s.push_eq, if_neg h]
  rfl

/-- Settles O24: the two outcomes of `push`; the frame of the good one is that of the push, then of the jump. -/
theorem callPushesItsAddress : Obligations.CallPushesItsAddress := by
  intro nnn s
  refine ⟨?encoding, fun hfull => ?full, fun hroom => ?pushed⟩
  case encoding => exact encodedAs_of_toNat (by simp [wordNnn_toNat]) (decodeWord_call nnn)
  case full => rw [exec_call_of_full nnn hfull, raiseFatal_eq_aborted]
  case pushed =>
    have frame : KeptBut [.pc, .stack] s ((s.setStack (s.stack ++ [s.pc])).jump (addrOf nnn)) :=
      keptBut_trans (keptBut_setStack (by decide) s _) (keptBut_jump (by decide) _ _)
    exact ⟨_, exec_call_of_not_full nnn hroom, rfl, addrOf_toNat nnn, frame⟩

/-! `3XNN`, `4XNN` -/

theorem decodeWord_seImm (x : Reg) (nn : Byte) : decodeWord (wordXnn 0x3#4 x nn) = .instr (.seImm x nn) := by
  simp [decodeWord]

theorem decodeWord_sneImm (x : Reg) (nn : Byte) : decodeWord (wordXnn 0x4#4 x nn) = .instr (.sneImm x nn) := by
  simp [decodeWord]

/-- Settles O27: both instructions are the skip of R93, on a condition and on its negation. -/
theorem skipsOnImmediate : Obligations.SkipsOnImmediate := by
  intro x nn s
  refine ⟨?se, ?sne, ⟨s.skipIf (s.reg x == nn), rfl, ?sePc, keptBut_skipIf (by decide) s _⟩,
    ⟨s.skipIf (s.reg x != nn), rfl, ?snePc, keptBut_skipIf (by decide) s _⟩⟩
  case se => exact encodedAs_of_toNat (wordXnn_toNat ..) (decodeWord_seImm x nn)
  case sne => exact encodedAs_of_toNat (wordXnn_toNat ..) (decodeWord_sneImm x nn)
  case sePc => simp
  case snePc => by_cases h : s.reg x = nn <;> simp [h]

end Sys2Proof.Proofs
end

section
/-! PROOF. What the instructions of 41_alu.md share: the frames of a register write, what the registers and the flag
hold after it, and how the words of the 8 family are decoded. -/

namespace Sys2Proof.Proofs

open Sys2Proof Sys2Proof.Machine

/-! Frames of the register writes. -/

theorem keptBut_setReg {parts : List Part} (h : .V ∈ parts) (s : State) (r : Reg) (v : Byte) :
    KeptBut parts s (s.setReg r v) := by
  intro p hp
  cases p
  case V => exact absurd h hp
  all_goals simp [Part.Kept]

theorem keptBut_setReg_epilogue (s : State) (x : Reg) (v : Byte) :
    KeptBut [.V, .pc] s (s.setReg x v).epilogue :=
  keptBut_trans (keptBut_setReg (by decide) s x v) (keptBut_epilogue (by decide) _)

/-- `VF` is a register, so writing the flag after the result adds nothing to the frame. -/
theorem keptBut_writeResult (s : State) (x : Reg) (v flag : Byte) :
    KeptBut [.V, .pc] s (s.writeResult x v flag) :=
  keptBut_trans (keptBut_setReg (by decide) s x v) (keptBut_setReg_epilogue _ vfReg flag)

theorem keptBut_writeLogic (s : State) (x : Reg) (v : Byte) : KeptBut [.V, .pc] s (s.writeLogic x v) := by
  unfold State.writeLogic
  split
  case isTrue => exact keptBut_writeResult s x v _
  case isFalse => exact keptBut_setReg_epilogue s x v

/-! The registers after a result and its flag. The claims write `VF` as 0xF, which is what `vfReg` unfolds to. -/

theorem reg_writeResult_dest (s : State) {x : Reg} (v flag : Byte) (hx : x ≠ 0xF) :
    (s.writeResult x v flag).reg x = v :=
  (s.reg_writeResult x x v flag).trans ((if_neg hx).trans (if_pos rfl))

/-- The flag is written last, so it stays with `x` = 0xF too. -/
theorem reg_writeResult_vf (s : State) (x : Reg) (v flag : Byte) : (s.writeResult x v flag).reg 0xF = flag :=
  (s.reg_writeResult x vfReg v flag).trans (if_pos rfl)

theorem reg_writeResult_other (s : State) {x r : Reg} (v flag : Byte) (hx : r ≠ x) (hvf : r ≠ 0xF) :
    (s.writeResult x v flag).reg r = s.reg r :=
  (s.reg_writeResult x r v flag).trans ((if_neg hvf).trans (if_neg hx))

/-! The flags and results by their values. -/

theorem flagOf_decide (p : Prop) [Decidable p] : flagOf (decide p) = if p then 0x01#8 else 0x00#8 := by
  by_cases h : p <;> simp [flagOf, h]

theorem toNat_sub_eq_int_emod (a b : Byte) : ((a - b).toNat : Int) = ((a.toNat : Int) - (b.toNat : Int)) % 256 := by
  have ha := a.isLt
  have hb := b.isLt
  rw [BitVec.toNat_sub]
  omega

theorem shiftedOutRight_toNat (v : Byte) : (shiftedOutRight v).toNat = v.toNat % 2 := by
  rw [shiftedOutRight, BitVec.toNat_and]
  exact Nat.and_one_is_mod v.toNat

/-- Shifting a byte by seven leaves its bit 7 alone, so the mask of `8XYE` removes nothing. -/
theorem shiftedOutLeft_toNat (v : Byte) : (shiftedOutLeft v).toNat = v.toNat / 128 := by
  have bit : v.toNat / 128 < 2 := by have := v.isLt; omega
  rw [shiftedOutLeft, BitVec.toNat_and, BitVec.toNat_ushiftRight, Nat.shiftRight_eq_div_pow]
  exact (Nat.and_one_is_mod _).trans (Nat.mod_eq_of_lt bit)

theorem toNat_shiftRight_one (v : Byte) : (v >>> 1).toNat = v.toNat / 2 := by
  rw [BitVec.toNat_ushiftRight, Nat.shiftRight_eq_div_pow, Nat.pow_one]

theorem toNat_shiftLeft_one (v : Byte) : (v <<< 1).toNat = 2 * v.toNat % 256 := by
  rw [BitVec.toNat_shiftLeft, Nat.shiftLeft_eq, Nat.pow_one, Nat.mul_comm]

theorem shiftReg_eq {s : State} {x y src : Reg}
    (h : (s.cfg.shiftSource = .vy ∧ src = y) ∨ (s.cfg.shiftSource = .vx ∧ src = x)) : s.shiftReg x y = src := by
  obtain ⟨hvy, rfl⟩ | ⟨hvx, rfl⟩ := h
  · rw [State.shiftReg, hvy]
  · rw [State.shiftReg, hvx]

/-! The words of the 8 family. -/

/-- Kind 8 goes to the dispatch by `n` of R77, so a word of the family needs only its arm there. -/
theorem encodedAs_of_decode8 (n : BitVec 4) (x y : Reg) {i : Instr} (h : decode8 (wordXyn 0x8#4 x y n) = .instr i) :
    EncodedAs (0x8000 + n.toNat + 0x100 * x.val + 0x10 * y.val) i := by
  have kind : (0x8#4).toNat = 8 := rfl
  have value : (wordXyn 0x8#4 x y n).toNat = 0x8000 + n.toNat + 0x100 * x.val + 0x10 * y.val := by
    rw [wordXyn_toNat, kind]
    omega
  have family : decodeWord (wordXyn 0x8#4 x y n) = decode8 (wordXyn 0x8#4 x y n) := by simp [decodeWord]
  exact encodedAs_of_toNat value (family.trans h)

end Sys2Proof.Proofs
end

section
/-! PROOF. Immediate loads and adds, logic, arithmetic and shifts of 41_alu.md. -/

namespace Sys2Proof.Proofs

open Sys2Proof Sys2Proof.Machine

/-! `6XNN`, `7XNN` -/

theorem decodeWord_ldImm (x : Reg) (nn : Byte) : decodeWord (wordXnn 0x6#4 x nn) = .instr (.ldImm x nn) := by
  simp [decodeWord]

theorem decodeWord_addImm (x : Reg) (nn : Byte) : decodeWord (wordXnn 0x7#4 x nn) = .instr (.addImm x nn) := by
  simp [decodeWord]

/-- Settles O29: both are one register write and the epilogue; no flag is written. -/
theorem immediateLoadAndAdd : Obligations.ImmediateLoadAndAdd := by
  intro x nn s
  refine ⟨?ldEncoding, ?addEncoding,
    ⟨(s.setReg x nn).epilogue, rfl, ?loaded, rfl, keptBut_setReg_epilogue s x _⟩,
    ⟨(s.setReg x (s.reg x + nn)).epilogue, rfl, ?sum, ?others, rfl, keptBut_setReg_epilogue s x _⟩⟩
  case ldEncoding => exact encodedAs_of_toNat (wordXnn_toNat ..) (decodeWord_ldImm x nn)
  case addEncoding => exact encodedAs_of_toNat (wordXnn_toNat ..) (decodeWord_addImm x nn)
  case loaded => exact fun r => s.reg_setReg x r nn
  case sum => rw [State.reg_epilogue, State.reg_setReg, if_pos rfl, BitVec.toNat_add]
  case others => exact fun r hr => by rw [State.reg_epilogue, State.reg_setReg, if_neg hr]

/-! `8XY1`, `8XY2`, `8XY3` -/

theorem writeLogic_logicEffect (s : State) (x : Reg) (v : Byte) : LogicEffect x v s (s.writeLogic x v) :=
  ⟨fun r => s.reg_writeLogic x r v, s.writeLogic_pc x v, keptBut_writeLogic s x v⟩

/-- Settles O31: the three instructions differ only in the value they hand to the one logic write. -/
theorem logicResultsAndFlagReset : Obligations.LogicResultsAndFlagReset := by
  intro x y s
  refine ⟨?orEncoding, ?andEncoding, ?xorEncoding, ⟨_, rfl, writeLogic_logicEffect s x _⟩,
    ⟨_, rfl, writeLogic_logicEffect s x _⟩, ⟨_, rfl, writeLogic_logicEffect s x _⟩⟩
  case orEncoding => exact encodedAs_of_decode8 0x1#4 x y (by simp [decode8])
  case andEncoding => exact encodedAs_of_decode8 0x2#4 x y (by simp [decode8])
  case xorEncoding => exact encodedAs_of_decode8 0x3#4 x y (by simp [decode8])

/-! `8XY4` -/

/-- Settles O32: the sum is the result and the carry the flag of one result write. -/
theorem addSetsCarry : Obligations.AddSetsCarry := by
  intro x y s
  refine ⟨?encoding, _, rfl, fun hx => ?sum, ?carry, fun r => reg_writeResult_other s _ _, rfl,
    keptBut_writeResult s x _ _⟩
  case encoding => exact encodedAs_of_decode8 0x4#4 x y (by simp [decode8])
  case sum => rw [reg_writeResult_dest s _ _ hx, BitVec.toNat_add]
  case carry => exact (reg_writeResult_vf s x _ _).trans (flagOf_decide _)

/-! `8XY5`, `8XY7` -/

/-- Settles O33: each difference, with its own minuend and subtrahend, is the result and the missing borrow the flag of
one result write. -/
theorem subtractionsSetNoBorrow : Obligations.SubtractionsSetNoBorrow := by
  intro x y s
  refine ⟨?subEncoding, ?subnEncoding,
    ⟨_, rfl, fun hx => ?sub, ?subFlag, fun r => reg_writeResult_other s _ _, rfl, keptBut_writeResult s x _ _⟩,
    ⟨_, rfl, fun hx => ?subn, ?subnFlag, fun r => reg_writeResult_other s _ _, rfl, keptBut_writeResult s x _ _⟩⟩
  case subEncoding => exact encodedAs_of_decode8 0x5#4 x y (by simp [decode8])
  case subnEncoding => exact encodedAs_of_decode8 0x7#4 x y (by simp [decode8])
  case sub | subn => rw [reg_writeResult_dest s _ _ hx, toNat_sub_eq_int_emod]
  case subFlag | subnFlag => exact (reg_writeResult_vf s x _ _).trans (flagOf_decide _)

/-! `8XY6`, `8XYE` -/

theorem exec_shr (x y : Reg) (s : State) :
    exec (.shr x y) s = .next (s.writeResult x (s.reg (s.shiftReg x y) >>> 1)
      (shiftedOutRight (s.reg (s.shiftReg x y)))) := rfl

theorem exec_shl (x y : Reg) (s : State) :
    exec (.shl x y) s = .next (s.writeResult x (s.reg (s.shiftReg x y) <<< 1)
      (shiftedOutLeft (s.reg (s.shiftReg x y)))) := rfl

/-- Settles O34: the hypothesis says which register `shiftReg` is; the shifted source is the result and the bit shifted
out the flag of one result write. -/
theorem shiftsMoveTheSourceByOne : Obligations.ShiftsMoveTheSourceByOne := by
  intro x y src s hsrc
  rw [exec_shr, exec_shl, shiftReg_eq hsrc]
  refine ⟨?shrEncoding, ?shlEncoding,
    ⟨_, rfl, fun hx => ?shr, ?shrFlag, fun r => reg_writeResult_other s _ _, rfl, keptBut_writeResult s x _ _⟩,
    ⟨_, rfl, fun hx => ?shl, ?shlFlag, fun r => reg_writeResult_other s _ _, rfl, keptBut_writeResult s x _ _⟩⟩
  case shrEncoding => exact encodedAs_of_decode8 0x6#4 x y (by simp [decode8])
  case shlEncoding => exact encodedAs_of_decode8 0xE#4 x y (by simp [decode8])
  case shr => rw [reg_writeResult_dest s _ _ hx, toNat_shiftRight_one]
  case shrFlag => rw [reg_writeResult_vf, shiftedOutRight_toNat]
  case shl => rw [reg_writeResult_dest s _ _ hx, toNat_shiftLeft_one]
  case shlFlag => rw [reg_writeResult_vf, shiftedOutLeft_toNat]

end Sys2Proof.Proofs
end

section
/-! PROOF. What the instructions of 42_index_memory.md share: the frames of their updates, what memory holds after a
store and the registers after a load, `I` after a transfer, and how the words of the F family are decoded. -/

namespace Sys2Proof.Proofs

open Sys2Proof Sys2Proof.Machine

/-! Frames. -/

theorem keptBut_setI {parts : List Part} (h : .I ∈ parts) (s : State) (v : Word) : KeptBut parts s (s.setI v) := by
  intro p hp
  cases p
  case I => exact absurd h hp
  all_goals simp [Part.Kept]

theorem keptBut_setMem {parts : List Part} (h : .mem ∈ parts) (s : State) (m : Memory) :
    KeptBut parts s (s.setMem m) := by
  intro p hp
  cases p
  case mem => exact absurd h hp
  all_goals simp [Part.Kept]

theorem keptBut_advanceI {parts : List Part} (h : .I ∈ parts) (s : State) (k : Nat) :
    KeptBut parts s (s.advanceI k) := by
  intro p hp
  cases p
  case I => exact absurd h hp
  all_goals simp [Part.Kept]

theorem keptBut_setFirstRegs {parts : List Part} (h : .V ∈ parts) (s : State) (bs : List Byte) :
    KeptBut parts s (s.setFirstRegs bs) := by
  intro p hp
  cases p
  case V => exact absurd h hp
  all_goals simp [Part.Kept]

theorem keptBut_setI_epilogue (s : State) (v : Word) : KeptBut [.I, .pc] s (s.setI v).epilogue :=
  keptBut_trans (keptBut_setI (by decide) s v) (keptBut_epilogue (by decide) _)

/-! The bytes of a store, and the bytes around it. -/

theorem read_writeBytes_within {m : Memory} {a k : Nat} {bs : List Byte} (hrange : a + bs.length ≤ memSize)
    (hk : k < bs.length) : (m.writeBytes a bs).read (a + k) = bs.getD k 0x00#8 := by
  have inside : a ≤ a + k ∧ a + k < a + bs.length := by omega
  rw [Memory.read_writeBytes m a _ bs hrange, if_pos inside, Nat.add_sub_cancel_left]

theorem bytesKeptBut_writeBytes {s t : State} {a : Nat} {bs : List Byte} (hrange : a + bs.length ≤ memSize)
    (hmem : t.mem = s.mem.writeBytes a bs) : BytesKeptBut a bs.length s t := by
  intro b outside
  rw [hmem, Memory.read_writeBytes s.mem a b bs hrange, if_neg outside]

/-! The registers after a load. -/

/-- Past the end of the loaded bytes `setFirstRegs` falls back on the register itself. -/
theorem reg_setFirstRegs_readBytes (s : State) (x r : Reg) :
    (s.setFirstRegs (s.mem.readBytes s.I.toNat (regCount x))).reg r =
      if r ≤ x then s.mem.read (s.I.toNat + r.val) else s.reg r := by
  rw [State.reg_setFirstRegs]
  by_cases hr : r ≤ x
  · have loaded : r.val < regCount x := Nat.lt_succ_of_le hr
    rw [if_pos hr, Memory.readBytes_getD _ _ _ _ _ loaded]
  · have past : (s.mem.readBytes s.I.toNat (regCount x)).length ≤ r.val := by
      rw [Memory.readBytes_length]
      exact Nat.lt_of_not_le hr
    rw [if_neg hr, List.getD_eq_default _ _ past]

/-! `I` after a transfer: `t` is the state with the bytes moved, `s` the one before it. -/

/-- A transfer that passed the range check cannot carry `I` past 16 bits, so its advance does not wrap. -/
theorem advanceI_I_of_advance {s t : State} {k : Nat} (hI : t.I = s.I) (hcfg : t.cfg = s.cfg)
    (hadvance : s.cfg.loadStoreI = .advance) (hrange : s.I.toNat + k ≤ 4096) :
    (t.advanceI k).I.toNat = s.I.toNat + k := by
  rw [State.advanceI_I, if_pos (hcfg ▸ hadvance), hI, BitVec.toNat_add, BitVec.toNat_ofNat]
  omega

theorem advanceI_I_of_keep {s t : State} (k : Nat) (hI : t.I = s.I) (hcfg : t.cfg = s.cfg)
    (hkeep : s.cfg.loadStoreI = .keep) : (t.advanceI k).I = s.I := by
  rw [State.advanceI_I, if_neg (by simp [hcfg, hkeep]), hI]

/-! Operands by their values. -/

theorem add_regCount (a : Nat) (x : Reg) : a + regCount x = a + x.val + 1 := (Nat.add_assoc a x.val 1).symm

@[simp] theorem wordOf_toNat (v : Byte) : (wordOf v).toNat = v.toNat := BitVec.toNat_setWidth_of_le (by decide)

theorem lowNibble_val (v : Byte) : (lowNibble v).val = v.toNat % 16 := by
  have masked : (v &&& 0x0F#8).toNat = v.toNat % 16 := by
    rw [BitVec.toNat_and]
    exact Nat.and_two_pow_sub_one_eq_mod v.toNat 4
  show (v &&& 0x0F#8).toNat % 16 = v.toNat % 16
  rw [masked, Nat.mod_mod]

theorem glyphAddr_toNat (v : Byte) : (glyphAddr v).toNat = v.toNat % 16 * 5 := by
  rw [glyphAddr, lowNibble_val, BitVec.toNat_ofNat]
  omega

/-- Each quotient and remainder fits a byte, so no digit is cut short. -/
theorem bcdDigits_toNat (v : Byte) :
    ((bcdDigits v).getD 0 0x00#8).toNat = v.toNat / 100 ∧
    ((bcdDigits v).getD 1 0x00#8).toNat = v.toNat / 10 % 10 ∧
    ((bcdDigits v).getD 2 0x00#8).toNat = v.toNat % 10 := by
  have fits : ∀ n, n ≤ v.toNat → (BitVec.ofNat 8 n).toNat = n := fun n hn =>
    (BitVec.toNat_ofNat n 8).trans (Nat.mod_eq_of_lt (Nat.lt_of_le_of_lt hn v.isLt))
  exact ⟨fits _ (by omega), fits _ (by omega), fits _ (by omega)⟩

/-! The words of the F family. -/

/-- Kind 0xF goes to the dispatch by `nn` of R79, so a word of the family needs only its arm there. -/
theorem encodedAs_of_decodeF (nn : Byte) (x : Reg) {i : Instr} (h : decodeF (wordXnn 0xF#4 x nn) = .instr i) :
    EncodedAs (0xF000 + nn.toNat + 0x100 * x.val) i := by
  have kind : (0xF#4).toNat = 15 := rfl
  have value : (wordXnn 0xF#4 x nn).toNat = 0xF000 + nn.toNat + 0x100 * x.val := by
    rw [wordXnn_toNat, kind]
    omega
  have family : decodeWord (wordXnn 0xF#4 x nn) = decodeF (wordXnn 0xF#4 x nn) := by simp [decodeWord]
  exact encodedAs_of_toNat value (family.trans h)

end Sys2Proof.Proofs
end

section
/-! PROOF. The index register and the memory transfers of 42_index_memory.md. Each transfer is decided by its one
checked access, so its outcomes are stated over that access. -/

namespace Sys2Proof.Proofs

open Sys2Proof Sys2Proof.Machine

/-! `FX1E`, `FX29` -/

/-- Settles O37: both are one write of `I` and the epilogue. The sum is `I`'s own 16-bit addition. -/
theorem indexAddAndGlyph : Obligations.IndexAddAndGlyph := by
  intro x s
  refine ⟨?addEncoding, ?glyphEncoding,
    ⟨(s.setI (s.I + wordOf (s.reg x))).epilogue, rfl, ?sum, rfl, keptBut_setI_epilogue s _⟩,
    ⟨(s.setI (glyphAddr (s.reg x))).epilogue, rfl, glyphAddr_toNat _, rfl, keptBut_setI_epilogue s _⟩⟩
  case addEncoding => exact encodedAs_of_decodeF 0x1E#8 x (by simp [decodeF])
  case glyphEncoding => exact encodedAs_of_decodeF 0x29#8 x (by simp [decodeF])
  case sum => rw [State.epilogue_I, State.setI_I, BitVec.toNat_add, wordOf_toNat]

/-! `FX33` -/

theorem exec_ldB_of_store_error {x : Reg} {s : State} {c : Cause}
    (h : s.storeAtI (bcdDigits (s.reg x)) = .error c) : exec (.ldB x) s = .next (Aborted s c) := by
  show execLdB x s = _
  rw [execLdB, h]
  rfl

theorem exec_ldB_of_store_ok {x : Reg} {s t : State} (h : s.storeAtI (bcdDigits (s.reg x)) = .ok t) :
    exec (.ldB x) s = .next t.epilogue := by
  show execLdB x s = _
  rw [execLdB, h]
  rfl

/-- Settles O38: the three outcomes of storing the three digits at `I`. A reserved `I` is far below the range check's
limit, so that check passes first. -/
theorem storeDecimalDigits : Obligations.StoreDecimalDigits := by
  intro x s
  have len : (bcdDigits (s.reg x)).length = 3 := bcdDigits_length _
  refine ⟨?encoding, fun hI => ?range, fun hI hfault => ?reserved, fun hI hallowed => ?stored⟩
  case encoding => exact encodedAs_of_decodeF 0x33#8 x (by simp [decodeF])
  case range => exact exec_ldB_of_store_error (s.storeAtI_range _ (by omega))
  case reserved => exact exec_ldB_of_store_error (s.storeAtI_reserved _ (by omega) hfault hI)
  case stored =>
    have inside : s.I.toNat + (bcdDigits (s.reg x)).length ≤ 4096 := by omega
    have digit : ∀ k, k < 3 → (s.mem.writeBytes s.I.toNat (bcdDigits (s.reg x))).read (s.I.toNat + k) =
        (bcdDigits (s.reg x)).getD k 0x00#8 := fun k hk => read_writeBytes_within inside hk
    obtain ⟨hundreds, tens, ones⟩ := bcdDigits_toNat (s.reg x)
    exact ⟨_, exec_ldB_of_store_ok (s.storeAtI_ok _ inside hallowed.symm),
      (congrArg BitVec.toNat (digit 0 (by omega))).trans hundreds,
      (congrArg BitVec.toNat (digit 1 (by omega))).trans tens,
      (congrArg BitVec.toNat (digit 2 (by omega))).trans ones,
      bytesKeptBut_writeBytes inside rfl, rfl,
      keptBut_trans (keptBut_setMem (by decide) s _) (keptBut_epilogue (by decide) _)⟩

/-! `FX55` -/

theorem exec_stRegs_of_store_error {x : Reg} {s : State} {c : Cause}
    (h : s.storeAtI (s.firstRegs (regCount x)) = .error c) : exec (.stRegs x) s = .next (Aborted s c) := by
  show execStRegs x s = _
  rw [execStRegs, h]
  rfl

theorem exec_stRegs_of_store_ok {x : Reg} {s t : State} (h : s.storeAtI (s.firstRegs (regCount x)) = .ok t) :
    exec (.stRegs x) s = .next (t.advanceI (regCount x)).epilogue := by
  show execStRegs x s = _
  rw [execStRegs, h]
  rfl

/-- Settles O40: the three outcomes of storing the `x + 1` registers at `I`; the good one is a memory write, the move of
`I`, and the epilogue. -/
theorem storeRegistersAtIndex : Obligations.StoreRegistersAtIndex := by
  intro x s
  have len : (s.firstRegs (regCount x)).length = x.val + 1 := s.firstRegs_length x
  have few : x.val < 16 := x.isLt
  refine ⟨?encoding, fun hI => ?range, fun hI hfault => ?reserved, fun hI hallowed => ?stored⟩
  case encoding => exact encodedAs_of_decodeF 0x55#8 x (by simp [decodeF])
  case range => exact exec_stRegs_of_store_error (s.storeAtI_range _ (by omega))
  case reserved => exact exec_stRegs_of_store_error (s.storeAtI_reserved _ (by omega) hfault hI)
  case stored =>
    have fits : s.I.toNat + regCount x ≤ 4096 := by rwa [add_regCount]
    have inside : s.I.toNat + (s.firstRegs (regCount x)).length ≤ 4096 := by omega
    refine ⟨((s.setMem (s.mem.writeBytes s.I.toNat (s.firstRegs (regCount x)))).advanceI (regCount x)).epilogue,
      exec_stRegs_of_store_ok (s.storeAtI_ok _ inside hallowed.symm), fun r hr => ?bytes, ?others,
      fun hadvance => ?advance, fun hkeep => ?keep, ?pc, ?frame⟩
    case bytes =>
      have stored : r.val < regCount x := Nat.lt_succ_of_le hr
      rw [State.epilogue_mem, State.advanceI_mem, State.setMem_mem,
        read_writeBytes_within inside (by rw [len]; exact stored), s.firstRegs_getD _ r _ stored]
    case others => rw [← len]; exact bytesKeptBut_writeBytes inside (by simp)
    case advance =>
      rw [State.epilogue_I, advanceI_I_of_advance (s.setMem_I _) (s.setMem_cfg _) hadvance fits, add_regCount]
    case keep => exact advanceI_I_of_keep _ (s.setMem_I _) (s.setMem_cfg _) hkeep
    case pc => simp
    case frame =>
      exact keptBut_trans (keptBut_setMem (by decide) s _)
        (keptBut_trans (keptBut_advanceI (by decide) _ _) (keptBut_epilogue (by decide) _))

/-! `FX65` -/

theorem exec_ldRegs_of_load_error {x : Reg} {s : State} {c : Cause} (h : s.loadAtI (regCount x) = .error c) :
    exec (.ldRegs x) s = .next (Aborted s c) := by
  show execLdRegs x s = _
  rw [execLdRegs, h]
  rfl

theorem exec_ldRegs_of_load_ok {x : Reg} {s : State} {bs : List Byte} (h : s.loadAtI (regCount x) = .ok bs) :
    exec (.ldRegs x) s = .next ((s.setFirstRegs bs).advanceI (regCount x)).epilogue := by
  show execLdRegs x s = _
  rw [execLdRegs, h]
  rfl

/-- Settles O41: the two outcomes of reading `x + 1` bytes at `I`; the good one is a register write, the move of `I`,
and the epilogue. -/
theorem loadRegistersAtIndex : Obligations.LoadRegistersAtIndex := by
  intro x s
  refine ⟨?encoding, fun hI => ?range, fun hI => ?loaded⟩
  case encoding => exact encodedAs_of_decodeF 0x65#8 x (by simp [decodeF])
  case range => exact exec_ldRegs_of_load_error (s.loadAtI_range _ (by rwa [add_regCount]))
  case loaded =>
    have inside : s.I.toNat + regCount x ≤ 4096 := by rwa [add_regCount]
    refine ⟨((s.setFirstRegs (s.mem.readBytes s.I.toNat (regCount x))).advanceI (regCount x)).epilogue,
      exec_ldRegs_of_load_ok (s.loadAtI_ok _ inside), fun r => ?regs, fun hadvance => ?advance,
      fun hkeep => ?keep, ?pc, ?frame⟩
    case regs => rw [State.reg_epilogue, State.reg_advanceI, reg_setFirstRegs_readBytes]
    case advance =>
      rw [State.epilogue_I, advanceI_I_of_advance (s.setFirstRegs_I _) (s.setFirstRegs_cfg _) hadvance inside,
        add_regCount]
    case keep => exact advanceI_I_of_keep _ (s.setFirstRegs_I _) (s.setFirstRegs_cfg _) hkeep
    case pc => simp
    case frame =>
      exact keptBut_trans (keptBut_setFirstRegs (by decide) s _)
        (keptBut_trans (keptBut_advanceI (by decide) _ _) (keptBut_epilogue (by decide) _))

end Sys2Proof.Proofs
end

section
/-! PROOF. What the instructions of 43_display.md share: the frame of a framebuffer write, the bytes of the host's view,
the two outcomes of `DXYN`, and the pixels and the hit of a drawn sprite in the claims' own terms. -/

namespace Sys2Proof.Proofs

open Sys2Proof Sys2Proof.Machine

/-! Frames. -/

theorem keptBut_setFB {parts : List Part} (h : .FB ∈ parts) (s : State) (fb : Frame) :
    KeptBut parts s (s.setFB fb) := by
  intro p hp
  cases p
  case FB => exact absurd h hp
  all_goals simp [Part.Kept]

/-! The host's view (R171). -/

theorem framebuffer_getElem (s : State) {k : Nat} (hk : k < 2048) :
    (framebuffer s)[k] = pixelByte (Frame.pixel s.FB ⟨k / 64, by omega⟩ ⟨k % 64, by omega⟩) := by
  simp [framebuffer]

/-! The state a finished draw leaves. -/

/-- `s` with the framebuffer of `k`, the collision it reports in `VF`, and the epilogue made (R174, R176). -/
def withCanvas (s : State) (k : Canvas) : State := ((s.setFB k.fb).setFlag (collisionFlag k.hit)).epilogue

theorem reg_withCanvas_vf (s : State) (k : Canvas) : (withCanvas s k).reg 0xF = collisionFlag k.hit :=
  ((s.setFB k.fb).reg_setFlag vfReg _).trans (if_pos rfl)

theorem reg_withCanvas_other (s : State) (k : Canvas) {r : Reg} (hr : r ≠ 0xF) :
    (withCanvas s k).reg r = s.reg r :=
  ((s.setFB k.fb).reg_setFlag r _).trans (if_neg hr)

theorem keptBut_withCanvas (s : State) (k : Canvas) : KeptBut [.V, .FB, .pc] s (withCanvas s k) :=
  keptBut_trans (keptBut_setFB (by decide) s _)
    (keptBut_trans (keptBut_setReg (by decide) _ vfReg _) (keptBut_epilogue (by decide) _))

/-! The two outcomes of `DXYN` (R174): its one check is that of the sprite's read. -/

theorem exec_drw_of_range {x y : Reg} {n : BitVec 4} {s : State} (h : 4096 < s.I.toNat + n.toNat) :
    exec (.drw x y n) s = .next (Aborted s .memoryOutOfRange) := by
  show execDrw x y n s = _
  rw [execDrw, s.loadAtI_range _ h]
  rfl

theorem exec_drw_of_inRange {x y : Reg} {n : BitVec 4} {s : State} (h : s.I.toNat + n.toNat ≤ 4096) :
    exec (.drw x y n) s = .next
      (withCanvas s (drawSprite s.FB (s.mem.readBytes s.I.toNat n.toNat) (s.reg x) (s.reg y))) := by
  show execDrw x y n s = _
  rw [execDrw, s.loadAtI_ok _ h]
  rfl

/-! The sprite of `n` rows at `I`, drawn on the screen. Its rows stay apart since the screen has 32 (R175). -/

theorem drawSprite_pixel_of_lit {s : State} {n : Nat} {cx cy : Byte} {r : Fin 32} {c : Fin 64} (hn : n ≤ 32)
    (h : Lit s n cx cy r c) :
    Frame.pixel (drawSprite s.FB (s.mem.readBytes s.I.toNat n) cx cy).fb r c = !(Frame.pixel s.FB r c) := by
  obtain ⟨pixels, -⟩ := drawRows_spec cx cy (s.mem.readBytes s.I.toNat n) ⟨s.FB, false⟩ 0 (by simpa using hn)
  exact (pixels r c).1 ((rowsLit_readBytes ..).2 h)

theorem drawSprite_pixel_of_not_lit {s : State} {n : Nat} {cx cy : Byte} {r : Fin 32} {c : Fin 64} (hn : n ≤ 32)
    (h : ¬ Lit s n cx cy r c) :
    Frame.pixel (drawSprite s.FB (s.mem.readBytes s.I.toNat n) cx cy).fb r c = Frame.pixel s.FB r c := by
  obtain ⟨pixels, -⟩ := drawRows_spec cx cy (s.mem.readBytes s.I.toNat n) ⟨s.FB, false⟩ 0 (by simpa using hn)
  exact (pixels r c).2 fun rows => h ((rowsLit_readBytes ..).1 rows)

theorem drawSprite_hit_iff (s : State) {n : Nat} (cx cy : Byte) (hn : n ≤ 32) :
    (drawSprite s.FB (s.mem.readBytes s.I.toNat n) cx cy).hit = true ↔
      ∃ r c, Lit s n cx cy r c ∧ Frame.pixel s.FB r c = true := by
  obtain ⟨-, hit⟩ := drawRows_spec cx cy (s.mem.readBytes s.I.toNat n) ⟨s.FB, false⟩ 0 (by simpa using hn)
  simpa [drawSprite, rowsLit_readBytes] using hit

end Sys2Proof.Proofs
end

section
/-! PROOF. Clearing, the host's view and the sprite draw of 43_display.md. -/

namespace Sys2Proof.Proofs

open Sys2Proof Sys2Proof.Machine

/-! `framebuffer()` -/

/-- Settles O45: quotient and remainder of `64 * r + c` by 64 give back row and column. -/
theorem framebufferViewIsRowMajor : Obligations.FramebufferViewIsRowMajor := by
  intro s r c
  have row : (64 * r.val + c.val) / 64 = r.val := by omega
  have col : (64 * r.val + c.val) % 64 = c.val := by omega
  simp only [framebuffer_getElem, row, col, pixelByte]

/-! `00E0` -/

/-- Settles O44: the blank frame replaces the framebuffer, and a pixel that is off is a zero byte of the view. -/
theorem clearTurnsEveryPixelOff : Obligations.ClearTurnsEveryPixelOff := by
  refine ⟨rfl, fun s => ⟨(s.setFB Frame.blank).epilogue, rfl, Frame.pixel_blank, fun k => ?view, rfl,
    keptBut_trans (keptBut_setFB (by decide) s _) (keptBut_epilogue (by decide) _)⟩⟩
  case view =>
    rw [framebuffer_getElem, State.epilogue_FB, State.setFB_FB, Frame.pixel_blank]
    rfl

/-! `DXYN` -/

theorem decodeWord_drw (x y : Reg) (n : BitVec 4) :
    decodeWord (wordXyn 0xD#4 x y n) = .instr (.drw x y n) := by
  simp [decodeWord]

/-- Settles O46: the two outcomes of the sprite's read. In the good one the canvas holds the flipped pixels and the hit,
and the coordinates are those of `s`, before `VF` is written. -/
theorem drawFlipsTheLitPixels : Obligations.DrawFlipsTheLitPixels := by
  intro x y n s
  have rows : n.toNat ≤ 32 := by have := n.isLt; omega
  have hit := drawSprite_hit_iff s (s.reg x) (s.reg y) rows
  refine ⟨?encoding, exec_drw_of_range, fun hI => ⟨_, exec_drw_of_inRange hI,
    fun r c => drawSprite_pixel_of_lit rows, fun r c => drawSprite_pixel_of_not_lit rows,
    fun hon => ?collision, fun hoff => ?noCollision, fun r => reg_withCanvas_other s _, rfl, keptBut_withCanvas s _⟩⟩
  case encoding => exact encodedAs_of_toNat (wordXyn_toNat ..) (decodeWord_drw x y n)
  case collision =>
    rw [reg_withCanvas_vf, hit.2 hon]
    rfl
  case noCollision =>
    have missed : ¬ ∃ r c, Lit s n.toNat (s.reg x) (s.reg y) r c ∧ Frame.pixel s.FB r c = true := by
      rintro ⟨r, c, hlit, hon⟩
      exact Bool.false_ne_true ((hoff r c hlit).symm.trans hon)
    rw [reg_withCanvas_vf, Bool.eq_false_iff.2 (mt hit.1 missed)]
    rfl

/-- Settles O47: a sprite of no rows is the empty list of bytes, which leaves the canvas as it was, so the draw comes to
a write of 0 to `VF` and the epilogue. -/
theorem drawOfNoRows : Obligations.DrawOfNoRows := by
  intro x y s
  have untouched : withCanvas s (drawSprite s.FB (s.mem.readBytes s.I.toNat 0) (s.reg x) (s.reg y)) =
      (s.setFlag 0x00#8).epilogue := rfl
  refine ⟨exec_drw_of_range (n := 0x0#4), fun hI => ⟨(s.setFlag 0x00#8).epilogue, ?drawn, ?flag,
    fun r hr => ?others, rfl, keptBut_setReg_epilogue s vfReg _⟩⟩
  case drawn => exact (exec_drw_of_inRange (n := 0x0#4) hI).trans (congrArg _ untouched)
  case flag => exact (s.reg_setFlag vfReg _).trans (if_pos rfl)
  case others => exact (s.reg_setFlag r _).trans (if_neg hr)

end Sys2Proof.Proofs
end

section
/-! PROOF. What the operations of 44_timers_keys.md share: the frames of their updates, the key a register names, and
how the words of the E family are decoded. -/

namespace Sys2Proof.Proofs

open Sys2Proof Sys2Proof.Machine

/-! Frames. -/

theorem keptBut_setDT {parts : List Part} (h : .DT ∈ parts) (s : State) (v : Byte) : KeptBut parts s (s.setDT v) := by
  intro p hp
  cases p
  case DT => exact absurd h hp
  all_goals simp [Part.Kept]

theorem keptBut_setST {parts : List Part} (h : .ST ∈ parts) (s : State) (v : Byte) : KeptBut parts s (s.setST v) := by
  intro p hp
  cases p
  case ST => exact absurd h hp
  all_goals simp [Part.Kept]

theorem keptBut_setAwaiting {parts : List Part} (h : .awaiting ∈ parts) (s : State) (a : Option Reg) :
    KeptBut parts s (s.setAwaiting a) := by
  intro p hp
  cases p
  case awaiting => exact absurd h hp
  all_goals simp [Part.Kept]

theorem keptBut_setKey {parts : List Part} (h : .KEY ∈ parts) (s : State) (k : Key) (pressed : Bool) :
    KeptBut parts s (s.setKey k pressed) := by
  intro p hp
  cases p
  case KEY => exact absurd h hp
  all_goals simp [Part.Kept]

/-! Keys by their codes. -/

theorem lowNibble_eq_of_val {v : Byte} {k : Key} (h : k.val = v.toNat % 16) : lowNibble v = k :=
  Fin.ext ((lowNibble_val v).trans h.symm)

/-- A key's code fits a register (R206). -/
theorem keyCode_toNat (k : Key) : (BitVec.ofNat 8 k.val).toNat = k.val := by
  have fits : k.val < 2 ^ 8 := by omega
  rw [BitVec.toNat_ofNat, Nat.mod_eq_of_lt fits]

/-! The words of the E family. -/

/-- Kind 0xE goes to the dispatch by `nn` of R78, so a word of the family needs only its arm there. -/
theorem encodedAs_of_decodeE (nn : Byte) (x : Reg) {i : Instr} (h : decodeE (wordXnn 0xE#4 x nn) = .instr i) :
    EncodedAs (0xE000 + nn.toNat + 0x100 * x.val) i := by
  have value : (wordXnn 0xE#4 x nn).toNat = 0xE000 + nn.toNat + 0x100 * x.val :=
    (wordXnn_toNat ..).trans (Nat.add_right_comm 0xE000 (0x100 * x.val) nn.toNat)
  exact encodedAs_of_toNat value (by simpa [decodeWord] using h)

end Sys2Proof.Proofs
end

section
/-! PROOF. The key skips, the key wait, the ticks and the key events of 44_timers_keys.md. -/

namespace Sys2Proof.Proofs

open Sys2Proof Sys2Proof.Machine

/-! `EX9E`, `EXA1` -/

/-- Settles O50: both instructions are the skip of R93, on the named key's state and on its negation. -/
theorem skipsOnKey : Obligations.SkipsOnKey := by
  intro x k s hk
  have named : lowNibble (s.reg x) = k := lowNibble_eq_of_val hk
  refine ⟨?skpEncoding, ?sknpEncoding,
    ⟨s.skipIf (s.keyDown (lowNibble (s.reg x))), rfl, ?skpPc, keptBut_skipIf (by decide) s _⟩,
    ⟨s.skipIf (!s.keyDown (lowNibble (s.reg x))), rfl, ?sknpPc, keptBut_skipIf (by decide) s _⟩⟩
  case skpEncoding => exact encodedAs_of_decodeE 0x9E#8 x (by simp [decodeE])
  case sknpEncoding => exact encodedAs_of_decodeE 0xA1#8 x (by simp [decodeE])
  case skpPc => rw [named, State.skipIf_pc]
  case sknpPc =>
    rw [named, State.skipIf_pc]
    cases s.keyDown k <;> rfl

/-! `FX0A` and the wait -/

/-- Settles O51: the instruction is one write of `awaiting` and the epilogue. -/
theorem keyWaitBegins : Obligations.KeyWaitBegins := by
  intro x s
  exact ⟨encodedAs_of_decodeF 0x0A#8 x (by simp [decodeF]), (s.setAwaiting (some x)).epilogue, rfl, rfl, rfl,
    keptBut_trans (keptBut_setAwaiting (by decide) s _) (keptBut_epilogue (by decide) _)⟩

/-- The wait is checked before the fetch, so `pc` plays no part (60_exceptions.md R224). -/
theorem cycle_of_awaiting {s : State} {r : Reg} (hfault : s.fault = none) (hwait : s.awaiting = some r) :
    cycle s = .next (s, .waiting) := by
  simp only [cycle, hfault, hwait]

/-- Settles O3: `step` answers the state of `cycle`, which stops at the wait. -/
theorem waitingStepChangesNothing : Obligations.WaitingStepChangesNothing := by
  intro s r hfault hwait
  have waits : cycle s = .next (s, .waiting) := cycle_of_awaiting hfault hwait
  exact ⟨by simp only [step, stepState, hfault, waits], waits⟩

/-! `tick_timers()`, `sound_active()` -/

/-- Settles O52: a tick without a record is the two decrements, and its frame is that of the two writes. -/
theorem tickDecrementsBothTimers : Obligations.TickDecrementsBothTimers := by
  intro s
  refine ⟨tickTimers_faulted s, fun hfault => ?ticked⟩
  case ticked =>
    rw [tickTimers_running s hfault]
    exact ⟨tickDown_toNat s.DT, tickDown_toNat s.ST,
      keptBut_trans (keptBut_setDT (by decide) s _) (keptBut_setST (by decide) _ _)⟩

/-- Settles O56: `sound_active()` is the test itself. -/
theorem soundIsActiveWhileTimerRuns : Obligations.SoundIsActiveWhileTimerRuns :=
  fun _ => decide_eq_true_iff

/-! `key_event()` -/

theorem deliverKey_faulted {s : State} (k : Key) (pressed : Bool) (h : s.fault ≠ none) :
    deliverKey k pressed s = s := by
  obtain ⟨-, same⟩ | ⟨hnone, -⟩ | ⟨_, hnone, -⟩ := deliverKey_cases s k pressed
  · exact same
  · exact absurd hnone h
  · exact absurd hnone h

/-- Settles O54: a delivered event only sets the key, or sets it and ends the wait. The first comes with a release or no
wait, the second with a press in a wait, so each meets the hypotheses of its own clause only. -/
theorem keyEventUpdatesTheKeypad : Obligations.KeyEventUpdatesTheKeypad := by
  intro k pressed s
  rw [keyEvent_of_lt]
  refine ⟨fun hfault => congrArg _ (deliverKey_faulted k pressed hfault), fun hfault => ⟨_, rfl, ?delivered⟩⟩
  obtain ⟨hrecord, -⟩ | ⟨-, hidle, hset⟩ | ⟨r, -, hpress, hwait, hended⟩ := deliverKey_cases s k pressed
  case inl => exact absurd hfault hrecord
  case inr.inl =>
    rw [hset]
    refine ⟨fun q => s.keyDown_setKey k q pressed, fun r hpress hwait => ?noWait,
      fun _ => ⟨rfl, s.reg_setKey k pressed⟩, keptBut_setKey (by decide) s k pressed⟩
    case noWait => simp [hpress, hwait] at hidle
  case inr.inr =>
    have frame : KeptBut [.KEY, .V, .awaiting] s
        (((s.setKey k pressed).setReg r (BitVec.ofNat 8 k.val)).setAwaiting none) :=
      keptBut_trans (keptBut_setKey (by decide) s k pressed)
        (keptBut_trans (keptBut_setReg (by decide) _ r _) (keptBut_setAwaiting (by decide) _ none))
    rw [hended]
    refine ⟨fun q => s.keyDown_setKey k q pressed, fun r' _ hwait' => ?ended, fun hidle => ?notIdle, frame⟩
    case ended =>
      obtain rfl : r = r' := Option.some.inj (hwait.symm.trans hwait')
      refine ⟨rfl, ?code, fun q hq => ?others⟩
      case code => rw [State.reg_setAwaiting, State.reg_setReg, if_pos rfl, keyCode_toNat]
      case others => rw [State.reg_setAwaiting, State.reg_setReg, if_neg hq, State.reg_setKey]
    case notIdle => simp [hpress, hwait] at hidle

end Sys2Proof.Proofs
end

section
/-! PROOF. The step around an instruction: what one call returns after a failed fetch, an instruction and an
unrecognized word (40_control.md R90, 60_exceptions.md R224, R228). -/

namespace Sys2Proof.Proofs

open Sys2Proof Sys2Proof.Machine

/-! One call of `step()` on a running machine, by what its fetch gives. -/

/-- Without a record `step` answers the state of `cycle` and leaves out what the call returns. -/
theorem step_of_cycle {s t : State} {o : StepOutcome} (hfault : s.fault = none) (hcycle : cycle s = .next (t, o)) :
    step s = .next t := by
  simp only [step, stepState, hfault, hcycle]

theorem cycle_of_fetch_error {s : State} {c : Cause} (hrun : s.Running) (hfetch : s.fetch = .error c) :
    cycle s = .next (Aborted s c, .fatal c) := by
  obtain ⟨hfault, hawaiting⟩ := hrun
  simp only [cycle, hfault, hawaiting, hfetch, raiseFatal_eq_aborted]

theorem cycle_of_fetch_ok {s : State} {w : Word} (hrun : s.Running) (hfetch : s.fetch = .ok w) :
    cycle s = runWord w s := by
  obtain ⟨hfault, hawaiting⟩ := hrun
  simp only [cycle, hfault, hawaiting, hfetch]

theorem cycle_of_instr {s t : State} {w : Word} {i : Instr} (hrun : s.Running) (hfetch : s.fetch = .ok w)
    (hdecode : decodeWord w = .instr i) (hexec : exec i s = .next t) : cycle s = .next (t, outcomeAfter t) := by
  rw [cycle_of_fetch_ok hrun hfetch]
  simp only [runWord, hdecode, runInstr, hexec]

theorem cycle_of_unrecognized {s : State} {w : Word} (hrun : s.Running) (hfetch : s.fetch = .ok w)
    (hdecode : decodeWord w = .unrecognized w) : cycle s = .next (s.passUnknown, .unrecognized w) := by
  rw [cycle_of_fetch_ok hrun hfetch]
  simp only [runWord, hdecode]

@[simp] theorem outcomeAfter_aborted (s : State) (c : Cause) : outcomeAfter (Aborted s c) = .fatal c := rfl

/-! An unrecognized word, under each value of UNKNOWN_PC. -/

theorem passUnknown_of_advance {s : State} (h : s.cfg.unknownPc = .advance) : s.passUnknown = s.epilogue := by
  rw [State.passUnknown, h]

theorem passUnknown_of_hold {s : State} (h : s.cfg.unknownPc = .hold) : s.passUnknown = s := by
  rw [State.passUnknown, h]

theorem keptBut_refl (parts : List Part) (s : State) : KeptBut parts s s := by
  intro p _
  cases p
  case mem | V | KEY => exact fun _ => rfl
  case FB => exact fun _ _ => rfl
  all_goals exact rfl

theorem keptBut_passUnknown {parts : List Part} (h : .pc ∈ parts) (s : State) : KeptBut parts s s.passUnknown := by
  cases hmode : s.cfg.unknownPc
  case advance => rw [passUnknown_of_advance hmode]; exact keptBut_epilogue h s
  case hold => rw [passUnknown_of_hold hmode]; exact keptBut_refl parts s

/-- Settles O5: the call passes the word by. Under hold it leaves the machine as it was, so the next call is this one
again. -/
theorem unrecognizedWordIsReported : Obligations.UnrecognizedWordIsReported := by
  intro s w hrun hfetch hdecode
  have reported : cycle s = .next (s.passUnknown, .unrecognized w) := cycle_of_unrecognized hrun hfetch hdecode
  have stepped : step s = .next s.passUnknown := step_of_cycle hrun.1 reported
  refine ⟨s.passUnknown, stepped, reported, fun hadvance => ?advance, fun hhold => ?hold,
    keptBut_passUnknown (by decide) s⟩
  case advance => rw [passUnknown_of_advance hadvance, State.epilogue_pc]
  case hold =>
    rw [passUnknown_of_hold hhold] at reported stepped ⊢
    exact ⟨rfl, stepped, reported⟩

end Sys2Proof.Proofs
end

section
/-! PROOF. The table of the causes (60_exceptions.md R220): the checks in the table's own terms, the record an
instruction leaves on a row's condition, and the record it does not write on any other state. -/

namespace Sys2Proof.Proofs

open Sys2Proof Sys2Proof.Machine

/-! The checked accesses in the table's terms, for an access of `n` bytes. -/

theorem storeAtI_of_rangeFails {s : State} {bs : List Byte} {n : Nat} (len : bs.length = n) (h : rangeFails n s) :
    s.storeAtI bs = .error .memoryOutOfRange :=
  s.storeAtI_range bs (len ▸ h)

theorem storeAtI_of_reservedFails {s : State} {bs : List Byte} {n : Nat} (len : bs.length = n)
    (hrange : ¬ rangeFails n s) (hlow : reservedFails s) : s.storeAtI bs = .error .reservedWrite :=
  s.storeAtI_reserved bs (len ▸ Nat.le_of_not_lt hrange) hlow.2 hlow.1

theorem writeAllowed_of_not_reservedFails {s : State} (h : ¬ reservedFails s) :
    s.cfg.lowWrite = .allow ∨ 0x200 ≤ s.I.toNat := by
  cases hmode : s.cfg.lowWrite
  case fault => exact .inr (Nat.le_of_not_lt fun hlow => h ⟨hlow, hmode⟩)
  case allow => exact .inl rfl

theorem storeAtI_of_checks_pass {s : State} {bs : List Byte} {n : Nat} (len : bs.length = n)
    (hrange : ¬ rangeFails n s) (hlow : ¬ reservedFails s) :
    s.storeAtI bs = .ok (s.setMem (s.mem.writeBytes s.I.toNat bs)) :=
  s.storeAtI_ok bs (len ▸ Nat.le_of_not_lt hrange) (writeAllowed_of_not_reservedFails hlow)

/-! The outcomes of `00EE` (R97): its one check is that of `pop`. -/

theorem exec_ret_of_empty {s : State} (h : s.stack = []) : exec .ret s = .next (Aborted s .stackUnderflow) := by
  show execRet s = _
  rw [execRet, s.pop_empty h]
  rfl

theorem exec_ret_of_last {s : State} {l : List Word} {v : Word} (h : s.stack = l ++ [v]) :
    exec .ret s = .next ((s.setStack l).jump v).epilogue := by
  show execRet s = _
  rw [execRet, s.pop_last l v h]
  rfl

/-! A row's condition raises its cause. -/

theorem exec_of_faultsWith {i : Instr} {s : State} {c : Cause} (h : FaultsWith i s c) :
    exec i s = .next (Aborted s c) := by
  cases c
  case fetchOutOfRange => exact h.elim
  case stackUnderflow =>
    obtain ⟨rfl, hempty⟩ := h
    exact exec_ret_of_empty hempty
  case stackOverflow =>
    obtain ⟨⟨nnn, rfl⟩, hfull⟩ := h
    exact exec_call_of_full nnn hfull
  case memoryOutOfRange =>
    obtain ⟨x, y, n, rfl, hrange⟩ | ⟨x, rfl, hrange⟩ | ⟨x, rfl | rfl, hrange⟩ := h
    · exact exec_drw_of_range hrange
    · exact exec_ldB_of_store_error (storeAtI_of_rangeFails (bcdDigits_length _) hrange)
    · exact exec_stRegs_of_store_error (storeAtI_of_rangeFails (s.firstRegs_length x) hrange)
    · exact exec_ldRegs_of_load_error (s.loadAtI_range _ hrange)
  case reservedWrite =>
    obtain ⟨⟨x, ⟨rfl, hrange⟩ | ⟨rfl, hrange⟩⟩, hlow⟩ := h
    · exact exec_ldB_of_store_error (storeAtI_of_reservedFails (bcdDigits_length _) hrange hlow)
    · exact exec_stRegs_of_store_error (storeAtI_of_reservedFails (s.firstRegs_length x) hrange hlow)

/-! Without a row's condition no record is written. -/

/-- Six instructions make checks of their own; where the checks pass, and for every other instruction always, the
updates made leave the record alone. -/
theorem exec_keeps_fault_or_faultsWith (i : Instr) (s : State) :
    (∃ t, exec i s = .next t ∧ t.fault = s.fault) ∨ ∃ c, FaultsWith i s c := by
  cases i
  case ret =>
    obtain ⟨hempty, -⟩ | ⟨l, v, hlast, -⟩ := s.pop_cases
    · exact .inr ⟨.stackUnderflow, rfl, hempty⟩
    · exact .inl ⟨_, exec_ret_of_last hlast, rfl⟩
  case call nnn =>
    by_cases hfull : s.stack.length = s.cfg.stackDepth
    · exact .inr ⟨.stackOverflow, ⟨nnn, rfl⟩, hfull⟩
    · exact .inl ⟨_, exec_call_of_not_full nnn hfull, rfl⟩
  case drw x y n =>
    by_cases hrange : rangeFails n.toNat s
    · exact .inr ⟨.memoryOutOfRange, .inl ⟨x, y, n, rfl, hrange⟩⟩
    · exact .inl ⟨_, exec_drw_of_inRange (Nat.le_of_not_lt hrange), rfl⟩
  case ldB x =>
    by_cases hrange : rangeFails 3 s
    · exact .inr ⟨.memoryOutOfRange, .inr (.inl ⟨x, rfl, hrange⟩)⟩
    by_cases hlow : reservedFails s
    · exact .inr ⟨.reservedWrite, ⟨x, .inl ⟨rfl, hrange⟩⟩, hlow⟩
    · exact .inl ⟨_, exec_ldB_of_store_ok (storeAtI_of_checks_pass (bcdDigits_length _) hrange hlow), rfl⟩
  case stRegs x =>
    by_cases hrange : rangeFails (x.val + 1) s
    · exact .inr ⟨.memoryOutOfRange, .inr (.inr ⟨x, .inl rfl, hrange⟩)⟩
    by_cases hlow : reservedFails s
    · exact .inr ⟨.reservedWrite, ⟨x, .inr ⟨rfl, hrange⟩⟩, hlow⟩
    · exact .inl ⟨_, exec_stRegs_of_store_ok (storeAtI_of_checks_pass (s.firstRegs_length x) hrange hlow), by simp⟩
  case ldRegs x =>
    by_cases hrange : rangeFails (x.val + 1) s
    · exact .inr ⟨.memoryOutOfRange, .inr (.inr ⟨x, .inr rfl, hrange⟩)⟩
    · exact .inl ⟨_, exec_ldRegs_of_load_ok (s.loadAtI_ok _ (Nat.le_of_not_lt hrange)), by simp⟩
  all_goals exact .inl ⟨_, rfl, by simp⟩

/-! The words of the table's instructions. -/

theorem decodeWord_encode_of_faultsWith {i : Instr} {s : State} {c : Cause} (h : FaultsWith i s c) :
    decodeWord (encode i) = .instr i := by
  cases c
  case fetchOutOfRange => exact h.elim
  case stackUnderflow =>
    obtain ⟨rfl, -⟩ := h
    decide
  case stackOverflow =>
    obtain ⟨⟨nnn, rfl⟩, -⟩ := h
    exact decodeWord_call nnn
  case memoryOutOfRange =>
    obtain ⟨x, y, n, rfl, -⟩ | ⟨x, rfl, -⟩ | ⟨x, rfl | rfl, -⟩ := h
    · exact decodeWord_drw x y n
    all_goals simp [encode, decodeWord, decodeF]
  case reservedWrite =>
    obtain ⟨⟨x, ⟨rfl, -⟩ | ⟨rfl, -⟩⟩, -⟩ := h
    all_goals simp [encode, decodeWord, decodeF]

/-- Settles O7: the table's two directions for `exec`, the failed fetch, and the call that fetches a faulting
instruction's word. The codes are the model's own labels. -/
theorem faultsExactlyAsTabled : Obligations.FaultsExactlyAsTabled := by
  refine ⟨fun i s hfault => ⟨fun c => exec_of_faultsWith, fun hclear => ?unrecorded⟩, fun s hrun hpc => ?fetch,
    fun i s c hrun hfetch _ hrow => ?call, rfl, rfl, rfl, rfl, rfl⟩
  case unrecorded =>
    obtain ⟨t, hexec, hkept⟩ | ⟨c, hrow⟩ := exec_keeps_fault_or_faultsWith i s
    · exact ⟨t, hexec, hkept.trans hfault⟩
    · exact absurd hrow (hclear c)
  case fetch =>
    have failed : s.fetch = .error .fetchOutOfRange := s.fetch_range (by omega)
    exact ⟨step_of_fetch_error hrun failed, cycle_of_fetch_error hrun failed⟩
  case call =>
    rw [cycle_of_instr hrun hfetch (decodeWord_encode_of_faultsWith hrow) (exec_of_faultsWith hrow),
      outcomeAfter_aborted]

end Sys2Proof.Proofs
end

section
/-! PROOF. Construction (70_reset_and_hazards.md R250, R253): what memory reads as in each of its regions, and the state
`construct` answers. -/

namespace Sys2Proof.Proofs

open Sys2Proof Sys2Proof.Machine

/-! Memory after construction: the FONT, the ROM and the zero bytes around them. -/

/-- The bytes the model's memory starts from are those of the default FONT (log entry 3). -/
theorem background_of_above_font {a : Nat} (h : 80 ≤ a) : background a = 0x00#8 :=
  List.getD_eq_default _ _ h

/-- Memory with the FONT alone: each of its bytes is overwritten, whatever the default FONT holds there. -/
theorem read_writeFont (font : Vector Byte 80) (a : Nat) :
    (Memory.writeBytes [] 0x000 font.toList).read a = if h : a < 80 then font[a] else 0x00#8 := by
  have fits : 0x000 + font.toList.length ≤ memSize := by simp [memSize]
  rw [Memory.read_writeBytes [] _ _ _ fits]
  by_cases ha : a < 80
  · simp [ha]
  · simpa [ha, Memory.read] using background_of_above_font (Nat.le_of_not_lt ha)

/-- The largest ROM ends where memory does (R250). -/
theorem rom_fits {rom : List Byte} (hsize : rom.length ≤ 3584) : 0x200 + rom.length ≤ memSize :=
  Nat.add_le_add_left hsize 0x200

theorem read_constructMem_of_rom (font : Vector Byte 80) {rom : List Byte} (hsize : rom.length ≤ 3584) {k : Nat}
    (hk : k < rom.length) : (constructMem font rom).read (0x200 + k) = rom[k] := by
  rw [constructMem, read_writeBytes_within (rom_fits hsize) hk, List.getD_eq_getElem _ _ hk]

theorem read_constructMem_of_not_rom (font : Vector Byte 80) {rom : List Byte} (hsize : rom.length ≤ 3584) {a : Nat}
    (ha : ¬ (0x200 ≤ a ∧ a < 0x200 + rom.length)) :
    (constructMem font rom).read a = if h : a < 80 then font[a] else 0x00#8 := by
  rw [constructMem, Memory.read_writeBytes _ _ _ _ (rom_fits hsize), if_neg ha, read_writeFont]

/-! The two answers of `construct`, by the size of the ROM. -/

theorem construct_of_bad_size (cfg : Config) (font : Vector Byte 80) {rom : List Byte}
    (hsize : rom.length < 2 ∨ 3584 < rom.length) : construct cfg font rom = .error .romSize := by
  rw [construct, if_pos hsize]

theorem construct_of_good_size (cfg : Config) (font : Vector Byte 80) {rom : List Byte} (hmin : 2 ≤ rom.length)
    (hmax : rom.length ≤ 3584) :
    construct cfg font rom = .ok { State.reset with mem := constructMem font rom, cfg := cfg } := by
  have good : ¬ (rom.length < 2 ∨ 3584 < rom.length) := by omega
  rw [construct, if_neg good]

/-! The vectors of the state after reset, which construction leaves as they are. -/

theorem reg_reset (r : Reg) : State.reset.reg r = 0x00#8 := Vector.getElem_replicate r.isLt

theorem keyDown_reset (k : Key) : State.reset.keyDown k = false := Vector.getElem_replicate k.isLt

/-- Settles O13: a ROM of a good size gives the state after reset with a memory of its own, whose bytes are read region
by region; an address of the FONT is below the ROM's first. -/
theorem constructedStateIsAsSpecified : Obligations.ConstructedStateIsAsSpecified := by
  intro cfg font rom
  refine ⟨construct_of_bad_size cfg font, fun hmin hmax => ⟨_, construct_of_good_size cfg font hmin hmax,
    fun a ha => ?font, fun k hk => read_constructMem_of_rom font hmax hk, fun a ha outside => ?zero, reg_reset,
    rfl, rfl, rfl, rfl, rfl, keyDown_reset, rfl, Frame.pixel_blank, rfl⟩⟩
  case font =>
    have below : ¬ (0x200 ≤ a ∧ a < 0x200 + rom.length) := by omega
    exact (read_constructMem_of_not_rom font hmax below).trans (dif_pos ha)
  case zero => exact (read_constructMem_of_not_rom font hmax outside).trans (dif_neg (Nat.not_lt.2 ha))

end Sys2Proof.Proofs
end

section
/-! PROOF. The decoder against the encoder (30_encoding.md R70 to R83). -/

namespace Sys2Proof.Proofs

open Sys2Proof

/-! Decoding a word of the encoder. -/

theorem sysWellFormed_iff (nnn : BitVec 12) : sysWellFormed nnn = true ↔ nnn ≠ 0x0E0#12 ∧ nnn ≠ 0x0EE#12 := by
  simp [sysWellFormed]

/-- The format's word has the kind of its family, and there the sub-opcode, so each dispatch takes the instruction's own
arm; `0NNN` alone has words that an earlier arm takes. -/
theorem decodeWord_encode {i : Instr} (hwf : i.wellFormed = true) : decodeWord (encode i) = .instr i := by
  cases i
  case sys nnn =>
    obtain ⟨hcls, hret⟩ := (sysWellFormed_iff nnn).1 hwf
    exact decodeWord_sys hcls hret
  case cls | ret => decide
  case seReg => simp [encode, decodeWord, decode5]
  case ldReg | orReg | andReg | xorReg | addReg | subReg | shr | subnReg | shl =>
    simp [encode, decodeWord, decode8]
  case sneReg => simp [encode, decodeWord, decode9]
  case skp | sknp => simp [encode, decodeWord, decodeE]
  case ldVxDt | ldVxK | ldDtVx | ldStVx | addI | ldF | ldB | stRegs | ldRegs =>
    simp [encode, decodeWord, decodeF]
  all_goals simp [encode, decodeWord]

@[simp] theorem wordOfBytes_highByte_lowByte (w : Word) : wordOfBytes (highByte w) (lowByte w) = w := by
  apply BitVec.eq_of_toNat_eq
  have := w.isLt
  simp [highByte, lowByte, Nat.shiftRight_eq_div_pow]
  omega

/-- Settles O11: on bytes the decoder joins the two halves of the word again. -/
theorem decodeOfEncodeIsIdentity : Obligations.DecodeOfEncodeIsIdentity := by
  intro i rest hwf
  have word : decodeWord (encode i) = .instr i := decodeWord_encode hwf
  refine ⟨word, ?bytes⟩
  case bytes => simp [encodeBytes, decode, word]

/-! Every word in its one class (R83). -/

/-- The words the tables of R77 to R81 list as unrecognized. -/
def ListedUnrecognized (w : Word) : Prop :=
  ((w.toNat / 0x1000 = 0x5 ∨ w.toNat / 0x1000 = 0x9) ∧ w.toNat % 0x10 ≠ 0) ∨
  (w.toNat / 0x1000 = 0x8 ∧ (8 ≤ w.toNat % 0x10 ∧ w.toNat % 0x10 ≠ 0xE)) ∨
  (w.toNat / 0x1000 = 0xE ∧ w.toNat % 0x100 ≠ 0x9E ∧ w.toNat % 0x100 ≠ 0xA1) ∨
  (w.toNat / 0x1000 = 0xF ∧ w.toNat % 0x100 ∉ [0x07, 0x0A, 0x15, 0x18, 0x1E, 0x29, 0x33, 0x55, 0x65])

/-- `d` puts `w` in its class of R83: a well-formed instruction whose encoding `w` is, or a listed word. -/
def Classifies (d : Decoded) (w : Word) : Prop :=
  (∃ i : Instr, d = .instr i ∧ i.wellFormed = true ∧ encode i = w ∧ ¬ ListedUnrecognized w) ∨
  (d = .unrecognized w ∧ ListedUnrecognized w)

section Families

variable {w : Word} {k n : BitVec 4} {nn : Byte}

/-! A word from its kind and sub-opcode, which is how the encoder writes it. -/

theorem wordNnn_of_kind (hk : kindOf w = k) : wordNnn k (nnnOf w) = w := hk ▸ wordNnn_fields w

theorem wordXnn_of_kind (hk : kindOf w = k) : wordXnn k (xOf w) (nnOf w) = w := hk ▸ wordXnn_fields w

theorem wordXyn_of_kind (hk : kindOf w = k) : wordXyn k (xOf w) (yOf w) (nOf w) = w := hk ▸ wordXyn_fields w

theorem wordXnn_of_kind_nn (hk : kindOf w = k) (hnn : nnOf w = nn) : wordXnn k (xOf w) nn = w :=
  hnn ▸ wordXnn_of_kind hk

theorem wordXyn_of_kind_n (hk : kindOf w = k) (hn : nOf w = n) : wordXyn k (xOf w) (yOf w) n = w :=
  hn ▸ wordXyn_of_kind hk

/-! The listed words by their kind. -/

theorem toNat_div_of_kind (hk : kindOf w = k) : w.toNat / 0x1000 = k.toNat := by
  have := w.isLt
  rw [← hk, kindOf_toNat]
  omega

theorem not_listed_of_kind (hk : kindOf w = k) (hother : k.toNat ∉ [0x5, 0x8, 0x9, 0xE, 0xF]) :
    ¬ ListedUnrecognized w := by
  simp only [List.mem_cons, List.not_mem_nil, or_false] at hother
  rw [ListedUnrecognized, toNat_div_of_kind hk]
  omega

theorem listed_iff_of_kind5 (hk : kindOf w = 0x5#4) : ListedUnrecognized w ↔ nOf w ≠ 0x0#4 := by
  simp [ListedUnrecognized, toNat_div_of_kind hk, BitVec.toNat_eq, nOf_toNat]

theorem listed_iff_of_kind8 (hk : kindOf w = 0x8#4) :
    ListedUnrecognized w ↔ 8 ≤ (nOf w).toNat ∧ (nOf w).toNat ≠ 0xE := by
  simp [ListedUnrecognized, toNat_div_of_kind hk, nOf_toNat]

theorem listed_iff_of_kind9 (hk : kindOf w = 0x9#4) : ListedUnrecognized w ↔ nOf w ≠ 0x0#4 := by
  simp [ListedUnrecognized, toNat_div_of_kind hk, BitVec.toNat_eq, nOf_toNat]

theorem listed_iff_of_kindE (hk : kindOf w = 0xE#4) :
    ListedUnrecognized w ↔ nnOf w ≠ 0x9E#8 ∧ nnOf w ≠ 0xA1#8 := by
  simp [ListedUnrecognized, toNat_div_of_kind hk, BitVec.toNat_eq, nnOf_toNat]

theorem listed_iff_of_kindF (hk : kindOf w = 0xF#4) : ListedUnrecognized w ↔
    nnOf w ∉ [0x07#8, 0x0A#8, 0x15#8, 0x18#8, 0x1E#8, 0x29#8, 0x33#8, 0x55#8, 0x65#8] := by
  simp [ListedUnrecognized, toNat_div_of_kind hk, BitVec.toNat_eq, nnOf_toNat]

/-! Each family's dispatch. -/

theorem classifies_instr {i : Instr} (hwf : i.wellFormed = true) (hword : encode i = w)
    (hlisted : ¬ ListedUnrecognized w) : Classifies (.instr i) w :=
  .inl ⟨i, rfl, hwf, hword, hlisted⟩

theorem classifies_decode0 (hk : kindOf w = 0x0#4) : Classifies (decode0 w) w := by
  have unlisted : ¬ ListedUnrecognized w := not_listed_of_kind hk (by decide)
  have word : wordNnn 0x0#4 (nnnOf w) = w := wordNnn_of_kind hk
  unfold decode0
  split_ifs with hcls hret
  · exact classifies_instr rfl hcls.symm unlisted
  · exact classifies_instr rfl hret.symm unlisted
  · have not_cls : nnnOf w ≠ 0x0E0#12 := fun h => hcls (word ▸ h ▸ rfl)
    have not_ret : nnnOf w ≠ 0x0EE#12 := fun h => hret (word ▸ h ▸ rfl)
    exact classifies_instr ((sysWellFormed_iff _).2 ⟨not_cls, not_ret⟩) word unlisted

theorem classifies_decode5 (hk : kindOf w = 0x5#4) : Classifies (decode5 w) w := by
  have listed := listed_iff_of_kind5 hk
  unfold decode5
  split_ifs with hn
  · exact classifies_instr rfl (wordXyn_of_kind_n hk hn) (by simp [listed, hn])
  · exact .inr ⟨rfl, listed.2 hn⟩

theorem classifies_decode8 (hk : kindOf w = 0x8#4) : Classifies (decode8 w) w := by
  have listed := listed_iff_of_kind8 hk
  unfold decode8
  split
  case h_10 =>
    refine .inr ⟨rfl, listed.2 ?_⟩
    simp only [imp_false, BitVec.toNat_eq, BitVec.toNat_ofNat] at *
    omega
  all_goals
    rename_i hn
    exact classifies_instr rfl (wordXyn_of_kind_n hk hn) (by simp [listed, hn])

theorem classifies_decode9 (hk : kindOf w = 0x9#4) : Classifies (decode9 w) w := by
  have listed := listed_iff_of_kind9 hk
  unfold decode9
  split_ifs with hn
  · exact classifies_instr rfl (wordXyn_of_kind_n hk hn) (by simp [listed, hn])
  · exact .inr ⟨rfl, listed.2 hn⟩

theorem classifies_decodeE (hk : kindOf w = 0xE#4) : Classifies (decodeE w) w := by
  have listed := listed_iff_of_kindE hk
  unfold decodeE
  split
  case h_3 not_skp not_sknp => exact .inr ⟨rfl, listed.2 ⟨not_skp, not_sknp⟩⟩
  all_goals
    rename_i hnn
    exact classifies_instr rfl (wordXnn_of_kind_nn hk hnn) (by simp [listed, hnn])

theorem classifies_decodeF (hk : kindOf w = 0xF#4) : Classifies (decodeF w) w := by
  have listed := listed_iff_of_kindF hk
  unfold decodeF
  split
  case h_10 => exact .inr ⟨rfl, listed.2 (by simp_all)⟩
  all_goals
    rename_i hnn
    exact classifies_instr rfl (wordXnn_of_kind_nn hk hnn) (by simp [listed, hnn])

end Families

/-- The dispatch by kind (R76): five families have unrecognized words, and the last arm is the only kind left. -/
theorem classifies_decodeWord (w : Word) : Classifies (decodeWord w) w := by
  unfold decodeWord
  split
  case h_1 hk => exact classifies_decode0 hk
  case h_6 hk => exact classifies_decode5 hk
  case h_9 hk => exact classifies_decode8 hk
  case h_10 hk => exact classifies_decode9 hk
  case h_15 hk => exact classifies_decodeE hk
  case h_16 =>
    refine classifies_decodeF ?_
    have := (kindOf w).isLt
    simp only [imp_false, BitVec.toNat_eq, BitVec.toNat_ofNat] at *
    omega
  case h_2 hk | h_3 hk | h_11 hk | h_12 hk =>
    exact classifies_instr rfl (wordNnn_of_kind hk) (not_listed_of_kind hk (by decide))
  case h_4 hk | h_5 hk | h_7 hk | h_8 hk | h_13 hk =>
    exact classifies_instr rfl (wordXnn_of_kind hk) (not_listed_of_kind hk (by decide))
  case h_14 hk => exact classifies_instr rfl (wordXyn_of_kind hk) (not_listed_of_kind hk (by decide))

/-- Settles O12: the word is no unrecognized one, so it is classified with the instruction it decodes to. -/
theorem encodeOfDecodeIsIdentity : Obligations.EncodeOfDecodeIsIdentity := by
  intro w i hdecode
  obtain ⟨j, hj, hwf, hword, -⟩ | ⟨hunrec, -⟩ := classifies_decodeWord w
  · obtain rfl : j = i := Decoded.instr.inj (hj.symm.trans hdecode)
    exact ⟨hwf, hword⟩
  · cases hunrec.symm.trans hdecode

/-- Settles O10: the two classes of R83 exclude each other. -/
theorem unrecognizedWordsAreTheListedOnes : Obligations.UnrecognizedWordsAreTheListedOnes := by
  intro w
  show _ ∧ (_ ↔ ListedUnrecognized w)
  obtain ⟨i, hi, -, -, hunlisted⟩ | ⟨hunrec, hlisted⟩ := classifies_decodeWord w
  · refine ⟨.inl ⟨i, hi⟩, fun h => ?_, fun h => absurd h hunlisted⟩
    cases hi.symm.trans h
  · exact ⟨.inr hunrec, fun _ => hlisted, fun _ => hunrec⟩

/-- Settles O9: each is one closed word. -/
theorem dispatchVectorsDecode : Obligations.DispatchVectorsDecode := by
  unfold Obligations.DispatchVectorsDecode
  decide

end Sys2Proof.Proofs
end

section
/-! PROOF. Everything an instruction can do to the parts of the state: which it keeps (10_state.md), the registers and
bytes it writes, and the `pc` and stack it leaves. Six instructions make checks of their own (60_exceptions.md R220);
what each of them answers is said once. -/

namespace Sys2Proof.Proofs

open Sys2Proof Sys2Proof.Machine

section Outcomes

variable {i : Instr} {s t u : State} {x y : Reg}

theorem exec_unique (h : exec i s = .next t) (h' : exec i s = .next u) : t = u :=
  Host.Outcome.next.inj (h.symm.trans h')

/-! The instructions with checks. -/

theorem exec_ret_next (h : exec .ret s = .next t) :
    (∃ c, t = Aborted s c) ∨ ∃ l v, s.stack = l ++ [v] ∧ t = ((s.setStack l).jump v).epilogue := by
  obtain ⟨hempty, -⟩ | ⟨l, v, hlast, -⟩ := s.pop_cases
  · exact .inl ⟨_, exec_unique h (exec_ret_of_empty hempty)⟩
  · exact .inr ⟨l, v, hlast, exec_unique h (exec_ret_of_last hlast)⟩

theorem exec_call_next {nnn : BitVec 12} (h : exec (.call nnn) s = .next t) :
    (∃ c, t = Aborted s c) ∨ s.stack.length ≠ s.cfg.stackDepth ∧
      t = (s.setStack (s.stack ++ [s.pc])).jump (addrOf nnn) := by
  by_cases hfull : s.stack.length = s.cfg.stackDepth
  · exact .inl ⟨_, exec_unique h (exec_call_of_full nnn hfull)⟩
  · exact .inr ⟨hfull, exec_unique h (exec_call_of_not_full nnn hfull)⟩

theorem exec_drw_next {n : BitVec 4} (h : exec (.drw x y n) s = .next t) :
    (∃ c, t = Aborted s c) ∨ ∃ k, t = withCanvas s k := by
  rcases Nat.lt_or_ge 4096 (s.I.toNat + n.toNat) with hrange | hrange
  · exact .inl ⟨_, exec_unique h (exec_drw_of_range hrange)⟩
  · exact .inr ⟨_, exec_unique h (exec_drw_of_inRange hrange)⟩

theorem exec_ldB_next (h : exec (.ldB x) s = .next t) :
    (∃ c, t = Aborted s c) ∨ ∃ u, s.storeAtI (bcdDigits (s.reg x)) = .ok u ∧ t = u.epilogue := by
  cases hstore : s.storeAtI (bcdDigits (s.reg x)) with
  | error c => exact .inl ⟨c, exec_unique h (exec_ldB_of_store_error hstore)⟩
  | ok u => exact .inr ⟨u, rfl, exec_unique h (exec_ldB_of_store_ok hstore)⟩

theorem exec_stRegs_next (h : exec (.stRegs x) s = .next t) :
    (∃ c, t = Aborted s c) ∨ ∃ u, s.storeAtI (s.firstRegs (regCount x)) = .ok u ∧
      t = (u.advanceI (regCount x)).epilogue := by
  cases hstore : s.storeAtI (s.firstRegs (regCount x)) with
  | error c => exact .inl ⟨c, exec_unique h (exec_stRegs_of_store_error hstore)⟩
  | ok u => exact .inr ⟨u, rfl, exec_unique h (exec_stRegs_of_store_ok hstore)⟩

theorem exec_ldRegs_next (h : exec (.ldRegs x) s = .next t) :
    (∃ c, t = Aborted s c) ∨
      t = ((s.setFirstRegs (s.mem.readBytes s.I.toNat (regCount x))).advanceI (regCount x)).epilogue := by
  rcases Nat.lt_or_ge 4096 (s.I.toNat + regCount x) with hrange | hrange
  · exact .inl ⟨_, exec_unique h (exec_ldRegs_of_load_error (s.loadAtI_range _ hrange))⟩
  · exact .inr (exec_unique h (exec_ldRegs_of_load_ok (s.loadAtI_ok _ hrange)))

end Outcomes

/-! Frames. -/

theorem keptBut_mono {parts parts' : List Part} (hsub : ∀ p ∈ parts, p ∈ parts') {s t : State}
    (h : KeptBut parts s t) : KeptBut parts' s t :=
  fun p hp => h p fun hmem => hp (hsub p hmem)

theorem keptBut_countDraw {parts : List Part} (h : .draws ∈ parts) (s : State) : KeptBut parts s s.countDraw := by
  intro p hp
  cases p
  case draws => exact absurd h hp
  all_goals simp [Part.Kept]

theorem keptBut_writeRandom (s : State) (x : Reg) (nn r : Byte) :
    KeptBut [.V, .pc, .draws] s (s.writeRandom x nn r) :=
  keptBut_trans (keptBut_countDraw (by decide) s)
    (keptBut_trans (keptBut_setReg (by decide) _ x _) (keptBut_epilogue (by decide) _))

theorem keptBut_storeAtI {parts : List Part} (h : .mem ∈ parts) {s u : State} {bs : List Byte}
    (hstore : s.storeAtI bs = .ok u) : KeptBut parts s u := by
  obtain ⟨-, -, rfl⟩ := s.storeAtI_eq_ok u bs hstore
  exact keptBut_setMem h s _

/-- Settles O20: an instruction's frame is that of its updates; where one of its checks fails it is the record's. -/
theorem instructionsChangeOnlyTheirParts : Obligations.InstructionsChangeOnlyTheirParts := by
  intro i s t h
  cases i
  case sys | jp | jpV0 =>
    obtain rfl := exec_unique h rfl
    show KeptBut [.pc, .fault] s _
    exact keptBut_jump (by decide) s _
  case seImm | sneImm | seReg | sneReg | skp | sknp =>
    obtain rfl := exec_unique h rfl
    show KeptBut [.pc, .fault] s _
    exact keptBut_skipIf (by decide) s _
  case cls =>
    obtain rfl := exec_unique h rfl
    show KeptBut [.FB, .pc, .fault] s _
    exact keptBut_trans (keptBut_setFB (by decide) s _) (keptBut_epilogue (by decide) _)
  case ldImm | addImm | ldReg | ldVxDt =>
    obtain rfl := exec_unique h rfl
    show KeptBut [.V, .pc, .fault] s _
    exact keptBut_mono (by decide) (keptBut_setReg_epilogue s _ _)
  case orReg | andReg | xorReg =>
    obtain rfl := exec_unique h rfl
    show KeptBut [.V, .pc, .fault] s _
    exact keptBut_mono (by decide) (keptBut_writeLogic s _ _)
  case addReg | subReg | shr | subnReg | shl =>
    obtain rfl := exec_unique h rfl
    show KeptBut [.V, .pc, .fault] s _
    exact keptBut_mono (by decide) (keptBut_writeResult s _ _ _)
  case rnd =>
    obtain rfl := exec_unique h rfl
    show KeptBut [.V, .draws, .pc, .fault] s _
    exact keptBut_mono (by decide) (keptBut_writeRandom s _ _ _)
  case ldI | addI | ldF =>
    obtain rfl := exec_unique h rfl
    show KeptBut [.I, .pc, .fault] s _
    exact keptBut_mono (by decide) (keptBut_setI_epilogue s _)
  case ldVxK =>
    obtain rfl := exec_unique h rfl
    show KeptBut [.awaiting, .pc, .fault] s _
    exact keptBut_trans (keptBut_setAwaiting (by decide) s _) (keptBut_epilogue (by decide) _)
  case ldDtVx =>
    obtain rfl := exec_unique h rfl
    show KeptBut [.DT, .pc, .fault] s _
    exact keptBut_trans (keptBut_setDT (by decide) s _) (keptBut_epilogue (by decide) _)
  case ldStVx =>
    obtain rfl := exec_unique h rfl
    show KeptBut [.ST, .pc, .fault] s _
    exact keptBut_trans (keptBut_setST (by decide) s _) (keptBut_epilogue (by decide) _)
  case ret =>
    show KeptBut [.stack, .pc, .fault] s t
    obtain ⟨c, rfl⟩ | ⟨l, v, -, rfl⟩ := exec_ret_next h
    · exact keptBut_raiseFatal (by decide) s c
    · exact keptBut_trans (keptBut_setStack (by decide) s l)
        (keptBut_trans (keptBut_jump (by decide) _ v) (keptBut_epilogue (by decide) _))
  case call =>
    show KeptBut [.stack, .pc, .fault] s t
    obtain ⟨c, rfl⟩ | ⟨-, rfl⟩ := exec_call_next h
    · exact keptBut_raiseFatal (by decide) s c
    · exact keptBut_trans (keptBut_setStack (by decide) s _) (keptBut_jump (by decide) _ _)
  case drw =>
    show KeptBut [.V, .FB, .pc, .fault] s t
    obtain ⟨c, rfl⟩ | ⟨k, rfl⟩ := exec_drw_next h
    · exact keptBut_raiseFatal (by decide) s c
    · exact keptBut_mono (by decide) (keptBut_withCanvas s k)
  case ldB =>
    show KeptBut [.mem, .pc, .fault] s t
    obtain ⟨c, rfl⟩ | ⟨u, hstore, rfl⟩ := exec_ldB_next h
    · exact keptBut_raiseFatal (by decide) s c
    · exact keptBut_trans (keptBut_storeAtI (by decide) hstore) (keptBut_epilogue (by decide) u)
  case stRegs =>
    show KeptBut [.mem, .I, .pc, .fault] s t
    obtain ⟨c, rfl⟩ | ⟨u, hstore, rfl⟩ := exec_stRegs_next h
    · exact keptBut_raiseFatal (by decide) s c
    · exact keptBut_trans (keptBut_storeAtI (by decide) hstore)
        (keptBut_trans (keptBut_advanceI (by decide) u _) (keptBut_epilogue (by decide) _))
  case ldRegs =>
    show KeptBut [.V, .I, .pc, .fault] s t
    obtain ⟨c, rfl⟩ | rfl := exec_ldRegs_next h
    · exact keptBut_raiseFatal (by decide) s c
    · exact keptBut_trans (keptBut_setFirstRegs (by decide) s _)
        (keptBut_trans (keptBut_advanceI (by decide) _ _) (keptBut_epilogue (by decide) _))

/-! The registers. -/

/-- Settles O21: an instruction with no register in its frame keeps them all; the others are written out by the update
they make. -/
theorem instructionsWriteOnlyTheirRegisters : Obligations.InstructionsWriteOnlyTheirRegisters := by
  intro i s t h r hr
  cases i
  case ldImm | addImm | ldReg | ldVxDt =>
    obtain rfl := exec_unique h rfl
    exact (s.reg_setReg _ r _).trans (if_neg hr)
  case orReg | andReg | xorReg =>
    obtain rfl := exec_unique h rfl
    obtain ⟨not_dest, not_flag⟩ := not_or.1 hr
    exact (s.reg_writeLogic _ r _).trans ((if_neg not_flag).trans (if_neg not_dest))
  case addReg | subReg | shr | subnReg | shl =>
    obtain rfl := exec_unique h rfl
    obtain ⟨not_dest, not_flag⟩ := not_or.1 hr
    exact reg_writeResult_other s _ _ not_dest not_flag
  case rnd =>
    obtain rfl := exec_unique h rfl
    exact (s.reg_writeRandom _ r _ _).trans (if_neg hr)
  case drw =>
    obtain ⟨c, rfl⟩ | ⟨k, rfl⟩ := exec_drw_next h
    · rfl
    · exact reg_withCanvas_other s k hr
  case ldRegs =>
    obtain ⟨c, rfl⟩ | rfl := exec_ldRegs_next h
    · rfl
    · rw [State.reg_epilogue, State.reg_advanceI, reg_setFirstRegs_readBytes]
      exact if_neg hr
  all_goals exact instructionsChangeOnlyTheirParts _ s t h .V (by simp [writtenParts]) r

/-! Memory. -/

/-- Everything an instruction does to memory: nothing, or one write of the bytes it stores to, which passed both checks
(20_memory.md R55, R59). -/
theorem exec_mem_cases {i : Instr} {s t : State} (h : exec i s = .next t) :
    t.mem = s.mem ∨ ∃ bs : List Byte, t.mem = s.mem.writeBytes s.I.toNat bs ∧
      s.I.toNat + bs.length ≤ 4096 ∧ (s.cfg.lowWrite = .allow ∨ 0x200 ≤ s.I.toNat) ∧
      ∀ a, StoresTo i s a ↔ s.I.toNat ≤ a ∧ a < s.I.toNat + bs.length := by
  cases i
  case ldB =>
    obtain ⟨c, rfl⟩ | ⟨u, hstore, rfl⟩ := exec_ldB_next h
    · exact .inl rfl
    · obtain ⟨hrange, hallowed, rfl⟩ := s.storeAtI_eq_ok u _ hstore
      exact .inr ⟨_, rfl, hrange, hallowed, fun a => Iff.rfl⟩
  case stRegs x =>
    obtain ⟨c, rfl⟩ | ⟨u, hstore, rfl⟩ := exec_stRegs_next h
    · exact .inl rfl
    · obtain ⟨hrange, hallowed, rfl⟩ := s.storeAtI_eq_ok u _ hstore
      exact .inr ⟨_, by simp, hrange, hallowed, fun a => by rw [s.firstRegs_length x]; rfl⟩
  case ret =>
    obtain ⟨c, rfl⟩ | ⟨l, v, -, rfl⟩ := exec_ret_next h
    all_goals exact .inl rfl
  case call =>
    obtain ⟨c, rfl⟩ | ⟨-, rfl⟩ := exec_call_next h
    all_goals exact .inl rfl
  case drw =>
    obtain ⟨c, rfl⟩ | ⟨k, rfl⟩ := exec_drw_next h
    all_goals exact .inl rfl
  case ldRegs =>
    obtain ⟨c, rfl⟩ | rfl := exec_ldRegs_next h
    · exact .inl rfl
    · exact .inl (by simp)
  all_goals
    obtain rfl := exec_unique h rfl
    exact .inl (by simp)

/-- Settles O57: outside its own bytes the one write reads as before. -/
theorem instructionsStoreOnlyTheirBytes : Obligations.InstructionsStoreOnlyTheirBytes := by
  intro i s t h a ha
  obtain hmem | ⟨bs, hmem, hrange, -, hstores⟩ := exec_mem_cases h
  · rw [hmem]
  · exact bytesKeptBut_writeBytes hrange hmem a (mt (hstores a).2 ha)

end Sys2Proof.Proofs
end

section
/-! PROOF. The step as a whole: it always answers, and it keeps the invariant (10_state.md sections 3, 5 and 9). The
instructions enter by the `pc` and the stack they leave. -/

namespace Sys2Proof.Proofs

open Sys2Proof Sys2Proof.Machine

/-! The `pc` and the stack after an instruction. -/

/-- The pairs of `pc` and stack an instruction without a fault can leave `s` with (40_control.md R92 to R99). A jump is
bounded by the largest target, `0xFFF` and a byte (10_state.md R24). -/
inductive Transfer (s : State) : Word → List Word → Prop where
  | advance : Transfer s (s.pc + 2#16) s.stack
  | skip : Transfer s (s.pc + 4#16) s.stack
  | jump (target : Word) (hlow : target.toNat ≤ 0x10FE) : Transfer s target s.stack
  | call (nnn : BitVec 12) (hroom : s.stack.length ≠ s.cfg.stackDepth) :
      Transfer s (addrOf nnn) (s.stack ++ [s.pc])
  | ret (l : List Word) (v : Word) (hlast : s.stack = l ++ [v]) : Transfer s (v + 2#16) l

theorem transfer_skipIf (s : State) (cond : Bool) : Transfer s (s.skipIf cond).pc (s.skipIf cond).stack := by
  cases cond
  case false => exact .advance
  case true => simpa using Transfer.skip

theorem transfer_of_advance {s t : State} (hpc : t.pc = s.pc + 2#16) (hstack : t.stack = s.stack) :
    Transfer s t.pc t.stack := by
  rw [hpc, hstack]
  exact .advance

/-- The sum of `BNNN` is far from 16 bits, so it does not wrap (R99). -/
theorem jpV0_toNat (nnn : BitVec 12) (v : Byte) : (addrOf nnn + wordOf v).toNat = nnn.toNat + v.toNat := by
  have := nnn.isLt
  have := v.isLt
  rw [BitVec.toNat_add, addrOf_toNat, wordOf_toNat]
  omega

theorem addrOf_le (nnn : BitVec 12) : (addrOf nnn).toNat ≤ 0xFFF := by
  have := nnn.isLt
  rw [addrOf_toNat]
  omega

theorem jpV0_le (nnn : BitVec 12) (v : Byte) : (addrOf nnn + wordOf v).toNat ≤ 0x10FE := by
  have := nnn.isLt
  have := v.isLt
  rw [jpV0_toNat]
  omega

theorem exec_transfer {i : Instr} {s t : State} (h : exec i s = .next t) :
    (∃ c, t = Aborted s c) ∨ Transfer s t.pc t.stack := by
  cases i
  case jp nnn =>
    obtain rfl := exec_unique h rfl
    exact .inr (.jump _ ((addrOf_le nnn).trans (by decide)))
  case jpV0 nnn =>
    obtain rfl := exec_unique h rfl
    exact .inr (.jump _ (jpV0_le nnn _))
  case seImm | sneImm | seReg | sneReg | skp | sknp =>
    obtain rfl := exec_unique h rfl
    exact .inr (transfer_skipIf s _)
  case orReg | andReg | xorReg =>
    obtain rfl := exec_unique h rfl
    exact .inr (transfer_of_advance (by simp) (by simp))
  case ret =>
    obtain hfault | ⟨l, v, hlast, rfl⟩ := exec_ret_next h
    · exact .inl hfault
    · exact .inr (.ret l v hlast)
  case call nnn =>
    obtain hfault | ⟨hroom, rfl⟩ := exec_call_next h
    · exact .inl hfault
    · exact .inr (.call nnn hroom)
  case drw =>
    obtain hfault | ⟨k, rfl⟩ := exec_drw_next h
    · exact .inl hfault
    · exact .inr .advance
  case ldB =>
    obtain hfault | ⟨u, hstore, rfl⟩ := exec_ldB_next h
    · exact .inl hfault
    · obtain ⟨-, -, rfl⟩ := s.storeAtI_eq_ok u _ hstore
      exact .inr .advance
  case stRegs =>
    obtain hfault | ⟨u, hstore, rfl⟩ := exec_stRegs_next h
    · exact .inl hfault
    · obtain ⟨-, -, rfl⟩ := s.storeAtI_eq_ok u _ hstore
      exact .inr (transfer_of_advance (by simp) (by simp))
  case ldRegs =>
    obtain hfault | rfl := exec_ldRegs_next h
    · exact .inl hfault
    · exact .inr (transfer_of_advance (by simp) (by simp))
  all_goals
    obtain rfl := exec_unique h rfl
    exact .inr .advance

theorem exec_fault_cases {i : Instr} {s t : State} (h : exec i s = .next t) :
    (∃ c, t = Aborted s c) ∨ t.fault = s.fault := by
  obtain ⟨u, hu, hkept⟩ | ⟨c, hrow⟩ := exec_keeps_fault_or_faultsWith i s
  · exact .inr (exec_unique h hu ▸ hkept)
  · exact .inl ⟨c, exec_unique h (exec_of_faultsWith hrow)⟩

/-! The invariant. -/

theorem faultAtPc_of_none {s : State} (h : s.fault = none) : s.faultAtPc := by
  simp [State.faultAtPc, h]

theorem inv_aborted {s : State} (h : s.Inv) (c : Cause) : (Aborted s c).Inv where
  memory := h.memory
  parameters := h.parameters
  stackBound := h.stackBound
  returnsLow := h.returnsLow
  pcBound := h.pcBound
  faultRecord := rfl

/-- Below the fetch's limit no advance passes R24's bound, which is that of the largest jump; a call's own address is
below R28's. -/
theorem transfer_bounds {s : State} {pc : Word} {stack : List Word} (h : s.Inv) (hpc : s.pc.toNat ≤ 4094)
    (ht : Transfer s pc stack) :
    stack.length ≤ s.cfg.stackDepth ∧ (∀ v ∈ stack, v.toNat ≤ 4094) ∧ pc.toNat ≤ 0x10FE := by
  cases ht
  case advance => exact ⟨h.stackBound, h.returnsLow, by bv_omega⟩
  case skip => exact ⟨h.stackBound, h.returnsLow, by bv_omega⟩
  case jump hlow => exact ⟨h.stackBound, h.returnsLow, hlow⟩
  case call nnn hroom =>
    have room : s.stack.length < s.cfg.stackDepth := Nat.lt_of_le_of_ne h.stackBound hroom
    refine ⟨by simpa using room, fun v hv => ?low, (addrOf_le nnn).trans (by decide)⟩
    case low =>
      obtain hold | rfl : v ∈ s.stack ∨ v = s.pc := by simpa using hv
      · exact h.returnsLow v hold
      · exact hpc
  case ret v hlast =>
    have popped := h.stackBound
    have low : v.toNat ≤ 4094 := h.returnsLow v (by simp [hlast])
    simp only [hlast, List.length_append, List.length_singleton] at popped
    exact ⟨by omega, fun u hu => h.returnsLow u (by simp [hlast, hu]), by bv_omega⟩

theorem exec_keeps_memWf {i : Instr} {s t : State} (hwf : s.mem.wf = true) (h : exec i s = .next t) :
    t.mem.wf = true := by
  obtain hmem | ⟨bs, hmem, -⟩ := exec_mem_cases h
  · rwa [hmem]
  · rw [hmem]
    exact Memory.wf_writeBytes s.mem _ bs hwf

/-- No instruction changes the parameters (log entry 1). -/
theorem cfg_not_written (i : Instr) : .cfg ∉ writtenParts i ++ [.pc, .fault] := by
  cases i <;> simp [writtenParts]

theorem exec_keeps_cfg {i : Instr} {s t : State} (h : exec i s = .next t) : t.cfg = s.cfg :=
  instructionsChangeOnlyTheirParts i s t h .cfg (cfg_not_written i)

theorem exec_keeps_inv {i : Instr} {s t : State} (h : s.Inv) (hfault : s.fault = none) (hpc : s.pc.toNat ≤ 4094)
    (hexec : exec i s = .next t) : t.Inv := by
  obtain ⟨c, rfl⟩ | htransfer := exec_transfer hexec
  · exact inv_aborted h c
  obtain ⟨c, rfl⟩ | hkept := exec_fault_cases hexec
  · exact inv_aborted h c
  have hcfg : t.cfg = s.cfg := exec_keeps_cfg hexec
  obtain ⟨hstack, hreturns, hpc'⟩ := transfer_bounds h hpc htransfer
  exact {
    memory := exec_keeps_memWf h.memory hexec
    parameters := hcfg ▸ h.parameters
    stackBound := hcfg ▸ hstack
    returnsLow := hreturns
    pcBound := hpc'
    faultRecord := faultAtPc_of_none (hkept.trans hfault) }

theorem inv_epilogue {s : State} (h : s.Inv) (hfault : s.fault = none) (hpc : s.pc.toNat ≤ 4094) :
    s.epilogue.Inv where
  memory := h.memory
  parameters := h.parameters
  stackBound := h.stackBound
  returnsLow := h.returnsLow
  pcBound := by rw [State.epilogue_pc]; bv_omega
  faultRecord := faultAtPc_of_none hfault

theorem inv_passUnknown {s : State} (h : s.Inv) (hfault : s.fault = none) (hpc : s.pc.toNat ≤ 4094) :
    s.passUnknown.Inv := by
  cases hmode : s.cfg.unknownPc
  case advance => rw [passUnknown_of_advance hmode]; exact inv_epilogue h hfault hpc
  case hold => rwa [passUnknown_of_hold hmode]

theorem pc_le_of_fetch_ok {s : State} {w : Word} (h : s.fetch = .ok w) : s.pc.toNat ≤ 4094 := by
  by_contra hpc
  rw [s.fetch_range (by omega)] at h
  cases h

/-- Settles O15: a step waits, faults at the fetch, runs an instruction or passes a word; the last two come after a
fetch, which bounds `pc`. -/
theorem stepKeepsInvariant : Obligations.StepKeepsInvariant := by
  intro s t h hstep
  obtain ⟨hfault, ⟨-, rfl⟩ | ⟨-, -, rfl⟩ | ⟨w, i, -, hfetch, -, hexec⟩ | ⟨w, w', -, hfetch, -, rfl⟩⟩ :=
    step_next_cases s t hstep
  · exact h
  · exact inv_aborted h _
  · exact exec_keeps_inv h hfault (pc_le_of_fetch_ok hfetch) hexec
  · exact inv_passUnknown h hfault (pc_le_of_fetch_ok hfetch)

theorem inv_reset : State.reset.Inv where
  memory := Memory.wf_reset
  parameters := by decide
  stackBound := by decide
  returnsLow := by simp [State.reset]
  pcBound := by decide
  faultRecord := trivial

/-- Settles O14: construction writes its bytes over an empty memory and takes the parameters as they are. -/
theorem constructedMachineMeetsInvariant : Obligations.ConstructedMachineMeetsInvariant := by
  refine ⟨inv_reset, fun cfg font rom s hcfg hs => ?_⟩
  unfold construct at hs
  split at hs
  case isTrue => cases hs
  case isFalse =>
    obtain rfl := Except.ok.inj hs
    have canonical : (constructMem font rom).wf = true :=
      Memory.wf_writeBytes _ _ rom (Memory.wf_writeBytes [] _ font.toList rfl)
    exact ⟨{ inv_reset with memory := canonical, parameters := hcfg, stackBound := Nat.zero_le _ }, rfl⟩

/-! A call of `step()` always answers. -/

theorem exec_total (i : Instr) (s : State) : ∃ t, exec i s = .next t := by
  obtain ⟨t, ht, -⟩ | ⟨c, hrow⟩ := exec_keeps_fault_or_faultsWith i s
  · exact ⟨t, ht⟩
  · exact ⟨_, exec_of_faultsWith hrow⟩

theorem cycle_of_fault {s : State} {c : Cause} {p : Word} (h : s.fault = some (c, p)) :
    cycle s = .next (s, .fatal c) := by
  simp only [cycle, h]

theorem step_of_fault {s : State} {c : Cause} {p : Word} (h : s.fault = some (c, p)) :
    step s = .fault (.fatal c p) := by
  simp only [step, stepState, h]

theorem cycle_total (s : State) : ∃ t o, cycle s = .next (t, o) := by
  rcases hfault : s.fault with _ | ⟨c, p⟩
  case some => exact ⟨s, _, cycle_of_fault hfault⟩
  rcases hwait : s.awaiting with _ | r
  case some => exact ⟨s, _, cycle_of_awaiting hfault hwait⟩
  have hrun : s.Running := ⟨hfault, hwait⟩
  rcases hfetch : s.fetch with c | w
  case error => exact ⟨_, _, cycle_of_fetch_error hrun hfetch⟩
  obtain ⟨⟨i, hi⟩ | hunrec, -⟩ := unrecognizedWordsAreTheListedOnes w
  · obtain ⟨t, hexec⟩ := exec_total i s
    exact ⟨t, _, cycle_of_instr hrun hfetch hi hexec⟩
  · exact ⟨_, _, cycle_of_unrecognized hrun hfetch hunrec⟩

/-- Settles O6: without a record `step` answers the state of the call, with one it answers the record. -/
theorem onlyTheFaultRecordStopsTheMachine : Obligations.OnlyTheFaultRecordStopsTheMachine := by
  refine ⟨exec_total, fun s => ⟨fun ⟨t, hstep⟩ => (step_next_cases s t hstep).1, fun hfault => ?_⟩⟩
  obtain ⟨t, o, hcycle⟩ := cycle_total s
  exact ⟨t, step_of_cycle hfault hcycle⟩

/-- A running machine's step is the instruction its fetched word decodes to (R90). -/
theorem step_of_instr {s : State} {w : Word} {i : Instr} (hrun : s.Running) (hfetch : s.fetch = .ok w)
    (hdecode : decodeWord w = .instr i) : step s = exec i s := by
  obtain ⟨t, hexec⟩ := exec_total i s
  rw [hexec, step_of_cycle hrun.1 (cycle_of_instr hrun hfetch hdecode hexec)]

/-- Settles O1: the fetch joins the two bytes, and `outcomeAfter` tells the two answers of the call apart. -/
theorem stepRunsDecodedInstruction : Obligations.StepRunsDecodedInstruction := by
  intro s i hrun hpc hdecode
  have hfetch := s.fetch_ok (by omega)
  have called : ∀ t, exec i s = .next t → cycle s = .next (t, outcomeAfter t) :=
    fun t => cycle_of_instr hrun hfetch hdecode
  refine ⟨step_of_instr hrun hfetch hdecode, fun t hexec => ⟨fun hnone => ?executed, fun c p hrecord => ?fatal⟩⟩
  case executed => rw [called t hexec, outcomeAfter, hnone]
  case fatal => rw [called t hexec, outcomeAfter, hrecord]

end Sys2Proof.Proofs
end

section
/-! PROOF. The host's operations in any order (44_timers_keys.md R204; 70_reset_and_hazards.md R255). What every
operation keeps, every list of operations keeps. -/

namespace Sys2Proof.Proofs

open Sys2Proof Sys2Proof.Machine

/-! One operation. -/

theorem applyOp_step_of_fault {s : State} (h : s.fault ≠ none) : applyOp .step s = .next s := by
  obtain ⟨⟨c, p⟩, hrecord⟩ := Option.ne_none_iff_exists'.1 h
  simp only [applyOp, cycle_of_fault hrecord]

theorem applyOp_step_of_no_fault {s : State} (h : s.fault = none) : applyOp .step s = step s := by
  obtain ⟨t, o, hcycle⟩ := cycle_total s
  rw [step_of_cycle h hcycle]
  simp only [applyOp, hcycle]

/-- Everything one operation can do. -/
theorem applyOp_next_cases {op : HostOp} {s t : State} (h : applyOp op s = .next t) :
    t = s ∨ step s = .next t ∨ t = (s.setDT (tickDown s.DT)).setST (tickDown s.ST) ∨
      ∃ (k : Key) (pressed : Bool), op = .keyEvent k.val pressed ∧ t = deliverKey k pressed s := by
  cases op
  case step =>
    by_cases hfault : s.fault = none
    · exact .inr (.inl ((applyOp_step_of_no_fault hfault).symm.trans h))
    · exact .inl (Host.Outcome.next.inj (h.symm.trans (applyOp_step_of_fault hfault)))
  case tick =>
    have ticked : t = tickTimers s := (Host.Outcome.next.inj h).symm
    by_cases hfault : s.fault = none
    · exact .inr (.inr (.inl (ticked.trans (tickTimers_running s hfault))))
    · exact .inl (ticked.trans (tickTimers_faulted s hfault))
  case keyEvent code pressed =>
    obtain ⟨k, rfl, delivered⟩ := keyEvent_next s t code pressed h
    exact .inr (.inr (.inr ⟨k, pressed, rfl, delivered⟩))

theorem keptBut_deliverKey (k : Key) (pressed : Bool) (s : State) :
    KeptBut [.KEY, .V, .awaiting] s (deliverKey k pressed s) := by
  obtain ⟨-, h⟩ | ⟨-, -, h⟩ | ⟨r, -, -, -, h⟩ := deliverKey_cases s k pressed
  · rw [h]; exact keptBut_refl _ s
  · rw [h]; exact keptBut_setKey (by decide) s k pressed
  · rw [h]
    exact keptBut_trans (keptBut_setKey (by decide) s k pressed)
      (keptBut_trans (keptBut_setReg (by decide) _ r _) (keptBut_setAwaiting (by decide) _ none))

theorem keptBut_release (k : Key) (s : State) : KeptBut [.KEY] s (deliverKey k false s) := by
  obtain ⟨-, h⟩ | ⟨-, -, h⟩ | ⟨_, -, hpress, -⟩ := deliverKey_cases s k false
  · rw [h]; exact keptBut_refl _ s
  · rw [h]; exact keptBut_setKey (by decide) s k false
  · cases hpress

/-- Settles O55: the range check comes before the record is looked at (log entry 11). -/
theorem keyCodeOutOfRangeIsRefused : Obligations.KeyCodeOutOfRangeIsRefused := by
  intro code pressed s hcode
  rw [keyEvent, dif_neg (by omega)]

/-- Settles O4: each operation looks at the record first. -/
theorem faultedMachineChangesNothing : Obligations.FaultedMachineChangesNothing := by
  intro s c p hrecord
  have hfault : s.fault ≠ none := by simp [hrecord]
  refine ⟨step_of_fault hrecord, cycle_of_fault hrecord, tickTimers_faulted s hfault, fun k pressed => ?key⟩
  case key => rw [keyEvent_of_lt, deliverKey_faulted k pressed hfault]

/-! Lists of operations. -/

theorem runOps_cons_of_next {op : HostOp} {rest : List HostOp} {s t : State} (h : applyOp op s = .next t) :
    runOps (op :: rest) s = runOps rest t := by
  simp only [runOps, h]

theorem runOps_cons_next {op : HostOp} {rest : List HostOp} {s t : State} (h : runOps (op :: rest) s = .next t) :
    ∃ u, applyOp op s = .next u ∧ runOps rest u = .next t := by
  cases hop : applyOp op s with
  | next u => exact ⟨u, rfl, (runOps_cons_of_next hop).symm.trans h⟩
  | fault r => simp only [runOps, hop, reduceCtorEq] at h
  | refused r => simp only [runOps, hop, reduceCtorEq] at h

/-- What each operation of a list keeps, the whole list keeps. -/
theorem runOps_keeps {P : State → Prop} {ops : List HostOp}
    (keeps : ∀ op ∈ ops, ∀ s t : State, P s → applyOp op s = .next t → P t) {s t : State} (hs : P s)
    (h : runOps ops s = .next t) : P t := by
  induction ops generalizing s with
  | nil => exact Host.Outcome.next.inj h ▸ hs
  | cons op rest ih =>
    obtain ⟨u, hop, hrest⟩ := runOps_cons_next h
    exact ih (fun op' hmem => keeps op' (List.mem_cons_of_mem _ hmem)) (keeps op List.mem_cons_self s u hs hop) hrest

/-- Settles O18: every operation answers the machine itself. -/
theorem faultRecordIsSticky : Obligations.FaultRecordIsSticky := by
  intro ops s hfault hcodes
  induction ops with
  | nil => rfl
  | cons op rest ih =>
    have same : applyOp op s = .next s := by
      cases op
      case step => exact applyOp_step_of_fault hfault
      case tick => exact congrArg _ (tickTimers_faulted s hfault)
      case keyEvent code pressed =>
        have hcode : code < 16 := of_decide_eq_true (hcodes _ List.mem_cons_self)
        exact (keyEvent_of_lt s ⟨code, hcode⟩ pressed).trans (congrArg _ (deliverKey_faulted _ pressed hfault))
    exact (runOps_cons_of_next same).trans (ih fun op' hmem => hcodes op' (List.mem_cons_of_mem _ hmem))

/-! The invariant. -/

/-- The invariant speaks of none of the timers, the keypad, the registers and the wait. -/
theorem inv_of_same {s t : State} (h : s.Inv) (hmem : t.mem = s.mem) (hcfg : t.cfg = s.cfg)
    (hstack : t.stack = s.stack) (hpc : t.pc = s.pc) (hfault : t.fault = s.fault) : t.Inv where
  memory := hmem ▸ h.memory
  parameters := hcfg ▸ h.parameters
  stackBound := by rw [hstack, hcfg]; exact h.stackBound
  returnsLow := by rw [hstack]; exact h.returnsLow
  pcBound := hpc ▸ h.pcBound
  faultRecord := by
    have := h.faultRecord
    unfold State.faultAtPc at this ⊢
    rwa [hfault, hpc]

theorem inv_deliverKey {s : State} (h : s.Inv) (k : Key) (pressed : Bool) : (deliverKey k pressed s).Inv := by
  obtain ⟨-, hk⟩ | ⟨-, -, hk⟩ | ⟨r, -, -, -, hk⟩ := deliverKey_cases s k pressed
  · rwa [hk]
  · rw [hk]; exact inv_of_same h rfl rfl rfl rfl rfl
  · rw [hk]; exact inv_of_same h rfl rfl rfl rfl rfl

/-- Settles O16: a tick writes the timers and a key event the keypad, a register and the wait; steps are O15. -/
theorem everyInterleavingKeepsInvariant : Obligations.EveryInterleavingKeepsInvariant := by
  intro ops s t hs hrun
  refine runOps_keeps (P := State.Inv) (fun op _ u v hu hop => ?_) hs hrun
  obtain rfl | hstep | rfl | ⟨k, pressed, -, rfl⟩ := applyOp_next_cases hop
  · exact hu
  · exact stepKeepsInvariant u v hu hstep
  · exact inv_of_same hu rfl rfl rfl rfl rfl
  · exact inv_deliverKey hu k pressed

/-! The reserved region. -/

/-- `t` has the parameters of `s` and its bytes below 0x200. -/
def LowBytesKept (s t : State) : Prop := t.cfg = s.cfg ∧ ∀ a : Nat, a < 0x200 → t.mem.read a = s.mem.read a

theorem lowBytesKept_of_keptBut {parts : List Part} {s t : State} (h : KeptBut parts s t) (hmem : .mem ∉ parts)
    (hcfg : .cfg ∉ parts) : LowBytesKept s t :=
  ⟨h .cfg hcfg, fun a _ => h .mem hmem a⟩

/-- A store that the check of R59 let through starts at 0x200 or above. -/
theorem exec_lowBytesKept {i : Instr} {s t : State} (hlow : s.cfg.lowWrite = .fault) (h : exec i s = .next t) :
    LowBytesKept s t := by
  refine ⟨exec_keeps_cfg h, fun a ha => ?_⟩
  obtain hmem | ⟨bs, hmem, hrange, hallowed, -⟩ := exec_mem_cases h
  · rw [hmem]
  · have start : 0x200 ≤ s.I.toNat := hallowed.resolve_left (by simp [hlow])
    exact bytesKeptBut_writeBytes hrange hmem a (by omega)

theorem step_lowBytesKept {s t : State} (hlow : s.cfg.lowWrite = .fault) (h : step s = .next t) :
    LowBytesKept s t := by
  obtain ⟨-, ⟨-, rfl⟩ | ⟨-, -, rfl⟩ | ⟨w, i, -, -, -, hexec⟩ | ⟨w, w', -, -, -, rfl⟩⟩ := step_next_cases s t h
  · exact ⟨rfl, fun _ _ => rfl⟩
  · exact ⟨rfl, fun _ _ => rfl⟩
  · exact exec_lowBytesKept hlow hexec
  · exact lowBytesKept_of_keptBut (keptBut_passUnknown (parts := [.pc]) (by decide) s) (by decide) (by decide)

/-- Settles O17: only a step writes memory, and no operation changes the parameter that protects the region. -/
theorem reservedRegionIsNeverWritten : Obligations.ReservedRegionIsNeverWritten := by
  intro ops s t hlow hrun
  have kept : LowBytesKept s t := by
    refine runOps_keeps (P := LowBytesKept s) (fun op _ u v hu hop => ?_) ⟨rfl, fun _ _ => rfl⟩ hrun
    obtain ⟨hcfg, hbytes⟩ := hu
    have one : LowBytesKept u v := by
      obtain rfl | hstep | rfl | ⟨k, pressed, -, rfl⟩ := applyOp_next_cases hop
      · exact ⟨rfl, fun _ _ => rfl⟩
      · exact step_lowBytesKept (hcfg ▸ hlow) hstep
      · exact ⟨rfl, fun _ _ => rfl⟩
      · exact lowBytesKept_of_keptBut (keptBut_deliverKey k pressed u) (by decide) (by decide)
    exact ⟨one.1.trans hcfg, fun a ha => (one.2 a ha).trans (hbytes a ha)⟩
  exact kept.2

/-! The key wait. -/

/-- Settles O19: in a wait a step changes nothing and a release only its key; the wait and the absence of a record are
themselves in the frame. -/
theorem onlyAPressEndsTheKeyWait : Obligations.OnlyAPressEndsTheKeyWait := by
  intro ops s t r hfault hwait hquiet hrun
  have frame : KeptBut [.DT, .ST, .KEY] s t := by
    refine runOps_keeps (P := KeptBut [.DT, .ST, .KEY] s) (fun op hmem u v hu hop => keptBut_trans hu ?_)
      (keptBut_refl _ s) hrun
    have hwait' : u.awaiting = some r := (hu .awaiting (by decide)).trans hwait
    have hfault' : u.fault = none := (hu .fault (by decide)).trans hfault
    obtain rfl | hstep | rfl | ⟨k, pressed, rfl, rfl⟩ := applyOp_next_cases hop
    · exact keptBut_refl _ _
    · obtain ⟨waits, -⟩ := waitingStepChangesNothing u r hfault' hwait'
      obtain rfl := Host.Outcome.next.inj (waits.symm.trans hstep)
      exact keptBut_refl _ _
    · exact keptBut_trans (keptBut_setDT (by decide) u _) (keptBut_setST (by decide) _ _)
    · cases pressed with
      | true => cases hquiet _ hmem
      | false => exact keptBut_mono (by decide) (keptBut_release k u)
  exact ⟨(frame .awaiting (by decide)).trans hwait, frame⟩

/-! The ticks. -/

/-- Settles O53: by induction on the number of ticks; each makes one decrement, and the frame keeps the machine without
a record. -/
theorem timersCountDownToZero : Obligations.TimersCountDownToZero := by
  intro k
  induction k with
  | zero => exact fun s _ => ⟨s, rfl, rfl, rfl, keptBut_refl _ s⟩
  | succ k ih =>
    intro s hfault
    obtain ⟨-, ticked⟩ := tickDecrementsBothTimers s
    obtain ⟨hDT, hST, frame⟩ := ticked hfault
    obtain ⟨t, hrun, hDT', hST', frame'⟩ := ih (tickTimers s) ((frame .fault (by decide)).trans hfault)
    exact ⟨t, hrun, by omega, by omega, keptBut_trans frame frame'⟩

end Sys2Proof.Proofs
end

section
/-! PROOF. Single instructions: jumps, returns, skips, the copy, the draw of a random byte, the index load and the timer
copies. Their words are the encoder's, and their frames those of their updates. -/

namespace Sys2Proof.Proofs

open Sys2Proof Sys2Proof.Machine

/-- The encoder's word of a well-formed instruction stands for it, whatever value a claim writes it by. -/
theorem encodedAs_of_encode {n : Nat} {i : Instr} (hwf : i.wellFormed = true) (hvalue : (encode i).toNat = n) :
    EncodedAs n i :=
  encodedAs_of_toNat hvalue (decodeWord_encode hwf)

/-! `1NNN`, `BNNN` -/

/-- Settles O23: both instructions are the jump alone. -/
theorem jumpsSetThePc : Obligations.JumpsSetThePc := by
  intro nnn s
  exact ⟨encodedAs_of_encode rfl (wordNnn_toNat ..), encodedAs_of_encode rfl (wordNnn_toNat ..),
    ⟨_, rfl, addrOf_toNat nnn, keptBut_jump (by decide) s _⟩,
    ⟨_, rfl, jpV0_toNat nnn (s.reg 0), keptBut_jump (by decide) s _⟩⟩

/-! `00EE` -/

/-- Settles O25: the two outcomes of `pop`; the frame of the good one is that of the pop, the jump and the epilogue. -/
theorem returnPopsAndAdvances : Obligations.ReturnPopsAndAdvances := by
  refine ⟨encodedAs_of_encode rfl rfl, fun s => ⟨exec_ret_of_empty, fun l v hlast => ?popped⟩⟩
  case popped =>
    exact ⟨_, exec_ret_of_last hlast, rfl, rfl, keptBut_trans (keptBut_setStack (by decide) s l)
      (keptBut_trans (keptBut_jump (by decide) _ v) (keptBut_epilogue (by decide) _))⟩

/-- Settles O26: the call's own address is the last entry of the stack it leaves. -/
theorem returnResumesAfterTheCall : Obligations.ReturnResumesAfterTheCall := by
  intro nnn s t u hroom hcall hstack
  obtain rfl := exec_unique hcall (exec_call_of_not_full nnn hroom)
  exact ⟨_, exec_ret_of_last hstack, rfl, rfl⟩

/-! `5XY0`, `9XY0` -/

/-- Settles O28: both instructions are the skip of R93, on a condition and on its negation. -/
theorem skipsOnRegisters : Obligations.SkipsOnRegisters := by
  intro x y s
  refine ⟨encodedAs_of_encode rfl (wordXyn_toNat ..), encodedAs_of_encode rfl (wordXyn_toNat ..),
    ⟨s.skipIf (s.reg x == s.reg y), rfl, ?sePc, keptBut_skipIf (by decide) s _⟩,
    ⟨s.skipIf (s.reg x != s.reg y), rfl, ?snePc, keptBut_skipIf (by decide) s _⟩⟩
  case sePc => simp
  case snePc => by_cases h : s.reg x = s.reg y <;> simp [h]

/-! `8XY0`, `CXNN` -/

/-- Settles O30: the instruction is one register write and the epilogue. -/
theorem copyRegister : Obligations.CopyRegister := by
  intro x y s
  exact ⟨encodedAs_of_encode rfl (wordXyn_toNat ..), (s.setReg x (s.reg y)).epilogue, rfl,
    fun r => s.reg_setReg x r _, rfl, keptBut_setReg_epilogue s x _⟩

/-- Settles O35: the byte drawn is the one the counter stands at, before it is advanced. -/
theorem randomByteUnderMask : Obligations.RandomByteUnderMask := by
  intro x nn s
  exact ⟨encodedAs_of_encode rfl (wordXnn_toNat ..), s.writeRandom x nn s.drawByte, rfl,
    fun r => s.reg_writeRandom x r nn _, rfl, rfl, keptBut_writeRandom s x nn _⟩

/-! `ANNN` -/

/-- Settles O36: the instruction is one write of `I` and the epilogue. -/
theorem indexLoad : Obligations.IndexLoad := by
  intro nnn s
  exact ⟨encodedAs_of_encode rfl (wordNnn_toNat ..), (s.setI (addrOf nnn)).epilogue, rfl, addrOf_toNat nnn, rfl,
    keptBut_setI_epilogue s _⟩

/-! `FX07`, `FX15`, `FX18` -/

/-- Settles O49: each is one write, of a register or of a timer, and the epilogue. -/
theorem timerCopies : Obligations.TimerCopies := by
  intro x s
  refine ⟨encodedAs_of_decodeF 0x07#8 x (by simp [decodeF]), encodedAs_of_decodeF 0x15#8 x (by simp [decodeF]),
    encodedAs_of_decodeF 0x18#8 x (by simp [decodeF]),
    ⟨(s.setReg x s.DT).epilogue, rfl, fun r => s.reg_setReg x r _, rfl, keptBut_setReg_epilogue s x _⟩,
    ⟨(s.setDT (s.reg x)).epilogue, rfl, rfl, rfl, ?delay⟩, ⟨(s.setST (s.reg x)).epilogue, rfl, rfl, rfl, ?sound⟩⟩
  case delay => exact keptBut_trans (keptBut_setDT (by decide) s _) (keptBut_epilogue (by decide) _)
  case sound => exact keptBut_trans (keptBut_setST (by decide) s _) (keptBut_epilogue (by decide) _)

end Sys2Proof.Proofs
end

section
/-! PROOF. What two rules together say: the digits of `FX33` as one number, a load after a store, a fetch after a store,
and two draws of one sprite. Each is derived from the settled statement about the instruction. -/

namespace Sys2Proof.Proofs

open Sys2Proof Sys2Proof.Machine

/-! `FX33` -/

/-- Without a Fatal both checks of a store at `I` passed. -/
theorem exec_ldB_checks {x : Reg} {s t : State} (hexec : exec (.ldB x) s = .next t) (hfault : t.fault = none) :
    s.I.toNat ≤ 0xFFD ∧ (0x200 ≤ s.I.toNat ∨ s.cfg.lowWrite = .allow) := by
  obtain ⟨c, rfl⟩ | ⟨u, hstore, -⟩ := exec_ldB_next hexec
  · cases hfault
  · obtain ⟨hrange, hallowed, -⟩ := s.storeAtI_eq_ok u _ hstore
    rw [bcdDigits_length] at hrange
    exact ⟨by omega, hallowed.symm⟩

/-- Settles O39: the bytes are the three digits of R153, and the register is kept. -/
theorem storedDigitsSpellTheRegister : Obligations.StoredDigitsSpellTheRegister := by
  intro x s t _ hexec hfault
  obtain ⟨hrange, hallowed⟩ := exec_ldB_checks hexec hfault
  obtain ⟨-, -, -, stored⟩ := storeDecimalDigits x s
  obtain ⟨u, hu, hundreds, tens, ones, -, -, frame⟩ := stored hrange hallowed
  obtain rfl := exec_unique hexec hu
  have register : t.reg x = s.reg x := frame .V (by decide) x
  have small := (s.reg x).isLt
  rw [hundreds, tens, ones, register]
  omega

/-! `FX55`, then `FX65` or the next fetch -/

/-- Settles O42: the load reads the bytes the store wrote, and both name the same addresses. -/
theorem loadRestoresStoredRegisters : Obligations.LoadRestoresStoredRegisters := by
  intro x s t u hrange hallowed hexec hmem hI
  obtain ⟨-, -, -, stored⟩ := storeRegistersAtIndex x s
  obtain ⟨t', ht', bytes, -⟩ := stored hrange hallowed
  obtain rfl := exec_unique hexec ht'
  obtain ⟨-, -, loaded⟩ := loadRegistersAtIndex x u
  obtain ⟨v, hv, regs, -⟩ := loaded (hI ▸ hrange)
  refine ⟨v, hv, fun r hr => ?below, fun r hr => ?above⟩
  case below => rw [regs, if_pos hr, hI, hmem, bytes r hr]
  case above => rw [regs, if_neg (not_le.2 hr)]

/-- Settles O43: the store leaves `V0` and `V1` at the two addresses of the next fetch, and the machine running. -/
theorem nextFetchSeesTheStore : Obligations.NextFetchSeesTheStore := by
  intro x s hrun hI hx hrange hallowed
  obtain ⟨-, -, -, stored⟩ := storeRegistersAtIndex x s
  obtain ⟨t, hexec, bytes, -, -, -, hpc, frame⟩ := stored hrange hallowed
  have next : t.pc.toNat = s.I.toNat := by rw [hpc]; bv_omega
  have hfetch := t.fetch_ok (by omega)
  have running : t.Running :=
    ⟨(frame .fault (by decide)).trans hrun.1, (frame .awaiting (by decide)).trans hrun.2⟩
  refine ⟨t, _, hexec, hfetch, ?word, fun i => step_of_instr running hfetch⟩
  case word =>
    have high : t.mem.read s.I.toNat = s.reg 0 := bytes 0 (Fin.zero_le x)
    have low : t.mem.read (s.I.toNat + 1) = s.reg 1 := bytes 1 hx
    rw [wordOfBytes_toNat, next, high, low]

/-! `DXYN` twice -/

/-- The lit pixels depend on memory and `I` alone. -/
theorem lit_congr {s t : State} (hmem : ∀ a, t.mem.read a = s.mem.read a) (hI : t.I = s.I) (n : Nat) (cx cy : Byte)
    (r : Fin 32) (c : Fin 64) : Lit t n cx cy r c ↔ Lit s n cx cy r c := by
  simp only [Lit, hmem, hI]

/-- Settles O48: the first draw keeps all that the second reads but the pixels, so both flip the same ones. A lit pixel
that the first draw turned on is a hit of the second, and there is no other. -/
theorem drawingTwiceRestoresTheScreen : Obligations.DrawingTwiceRestoresTheScreen := by
  intro x y n s t hx hy hrange hexec
  obtain ⟨-, -, drawn⟩ := drawFlipsTheLitPixels x y n s
  obtain ⟨t', ht', flipped, same, -, -, regs, -, frame⟩ := drawn hrange
  obtain rfl := exec_unique hexec ht'
  have hI : t.I = s.I := frame .I (by decide)
  have lit := lit_congr (frame .mem (by decide)) hI n.toNat (s.reg x) (s.reg y)
  obtain ⟨-, -, redrawn⟩ := drawFlipsTheLitPixels x y n t
  simp only [regs x hx, regs y hy, lit] at redrawn
  obtain ⟨u, hu, flipped', same', hit, missed, -⟩ := redrawn (hI ▸ hrange)
  refine ⟨u, hu, fun r c => ?restored, fun ⟨r, c, hoff, hon⟩ => hit ⟨r, c, ?turnedOn, hon⟩,
    fun hquiet => missed fun r c hlit => ?noneTurnedOn⟩
  case restored =>
    by_cases hlit : Lit s n.toNat (s.reg x) (s.reg y) r c
    · rw [flipped' r c hlit, flipped r c hlit, Bool.not_not]
    · rw [same' r c hlit, same r c hlit]
  case turnedOn =>
    by_contra hlit
    exact Bool.false_ne_true (hoff.symm.trans ((same r c hlit).symm.trans hon))
  case noneTurnedOn =>
    by_contra hon
    have hoff : Frame.pixel s.FB r c = false := by simpa [flipped r c hlit] using hon
    exact hon (hquiet r c hoff)

end Sys2Proof.Proofs
end
